-- ==== Sys2Proof/Word.lean ====
section
/-! DEFINITION. The word types of the block: what the spec treats as bits. -/

namespace Sys2Proof

/-- A byte: buffer contents, the `data` field of a request (10_state.md R14, 30_encoding.md R68). -/
abbrev Byte := BitVec 8

/-- A 16-bit value: the CRC register and the checksum (10_state.md R12). -/
abbrev Half := BitVec 16

/-- A 32-bit value: read data and counter values (20_memory.md R41, 10_state.md R27). -/
abbrev Word := BitVec 32

/-- A request word, `op` in 11:8 and `data` in 7:0 (30_encoding.md R68). -/
abbrev Request := BitVec 12

/-- A read-map address (20_memory.md R41). -/
abbrev Addr := BitVec 12

end Sys2Proof
end

