-- ==== Sys2Proof/Config.lean ====
section
/-! DEFINITION. The configuration record of the block (00_scope.md R3, R4) and the model's two open
constants. A value of these types is a configuration that is well formed in the sense of R5; raw
numbers are checked, and refused, in Sys2Proof/WellFormed.lean. -/

namespace Sys2Proof

/-- Order of the two checksum bytes on the wire (20_memory.md R44). -/
inductive CksumOrder where
  | loFirst
  | hiFirst
deriving DecidableEq, Repr

/-- Order of the four bytes of a counter value (20_memory.md R45). -/
inductive CntOrder where
  | le
  | be
deriving DecidableEq, Repr

/-- A flag descriptor `(off, mask, inv)` with a non-zero mask (00_scope.md R4, R5). -/
structure FlagDesc where
  off : Fin 112
  mask : Byte
  inv : Bool
  mask_pos : 0 < mask.toNat
deriving DecidableEq, Repr

/-- The layout of the state block (00_scope.md R4). The ranges of R5 are the types: an offset is in
0..111, the first byte of a counter value in 0..108. -/
structure Layout where
  /-- `OFF_S_STATE[0..2]` -/
  offState : Vector (Fin 112) 3
  /-- `OFF_S_SIGNAL[0..2]` -/
  offSignal : Vector (Fin 112) 3
  flagValve : FlagDesc
  flagDry : FlagDesc
  flagAutoClose : FlagDesc
  /-- `LINE_MODE[0..3]` -/
  lineMode : Vector FlagDesc 4
  /-- `OFF_L_VALUE[0..3]` -/
  offValue : Vector (Fin 109) 4
  cntOrder : CntOrder
deriving DecidableEq, Repr

/-- The configuration (00_scope.md R3, R4), well formed by R5. -/
structure Cfg where
  crcInit : Half
  crcRefin : Bool
  crcRefout : Bool
  crcXorout : Half
  cksumOrder : CksumOrder
  maxPay : Nat
  layout : Layout
  maxPay_ge : 112 ≤ maxPay
  maxPay_le : maxPay ≤ 255
deriving DecidableEq, Repr

/-- The `CFG0` checksum and frame parameters of 00_scope.md R3 with a given layout. -/
def Cfg.cfg0 (layout : Layout) : Cfg where
  crcInit := 0xFFFF
  crcRefin := false
  crcRefout := false
  crcXorout := 0x0000
  cksumOrder := .loFirst
  maxPay := 255
  layout := layout
  maxPay_ge := by decide
  maxPay_le := by decide

/-- FREE VALUE (DESIGN CHOICE, log 7). The `n`-th value the read port shows for a location that has
no architectural value (10_state.md R29). It has no body: no proof can see what it is. -/
opaque Config.freeRead : Nat → Word

/-- FREE VALUE (DESIGN CHOICE, log 4). The layout of the device, which the spec leaves open and gives
no default (00_scope.md R4). It has no body; the argument only says that a layout exists. -/
opaque Config.deviceLayout [Inhabited Layout] : Layout

/-- There is a layout: all the `opaque` above needs. Nothing reads this one. -/
def Layout.someLayout : Layout where
  offState := #v[0, 0, 0]
  offSignal := #v[0, 0, 0]
  flagValve := ⟨0, 1, false, by decide⟩
  flagDry := ⟨0, 1, false, by decide⟩
  flagAutoClose := ⟨0, 1, false, by decide⟩
  lineMode := #v[⟨0, 1, false, by decide⟩, ⟨0, 1, false, by decide⟩, ⟨0, 1, false, by decide⟩,
    ⟨0, 1, false, by decide⟩]
  offValue := #v[0, 0, 0, 0]
  cntOrder := .le

/-- The configuration State.reset is built with: `CFG0` (DESIGN CHOICE, log 3) and an unknown layout
(DESIGN CHOICE, log 4). -/
def Config.built : Cfg := Cfg.cfg0 (@Config.deviceLayout ⟨Layout.someLayout⟩)

end Sys2Proof
end

