-- ==== Sys2Proof/Syntax.lean ====
section
/-! DEFINITION. The instructions: one constructor per row of spec/opcode_table.json, and the two
encoded forms an instruction can have. -/

namespace Sys2Proof

/-- The ten operations (30_encoding.md R69), the six reserved codes (R71) and the three wire commands
(R64 to R66). An operation carries the `data` field of its request also where the rule says it is
ignored (R70), so that a request word and its instruction determine each other (log 11). A wire
command carries its payload and its two checksum bytes in wire order (R60). -/
inductive Instr where
  | nop (data : Byte)
  | crcInit (data : Byte)
  | crcByte (d : Byte)
  | pbClr (data : Byte)
  | pbPush (d : Byte)
  | fbClr (data : Byte)
  | fbPush (d : Byte)
  | fcEnc (c : Byte)
  | fcDec (data : Byte)
  | sdParse (data : Byte)
  | reservedA (data : Byte)
  | reservedB (data : Byte)
  | reservedC (data : Byte)
  | reservedD (data : Byte)
  | reservedE (data : Byte)
  | reservedF (data : Byte)
  | cmdQuery (payload : List Byte) (ck0 ck1 : Byte)
  | cmdControl (payload : List Byte) (ck0 ck1 : Byte)
  | cmdCounter (payload : List Byte) (ck0 ck1 : Byte)
deriving DecidableEq, Repr

/-- What stands for an instruction outside the block: a request word (30_encoding.md R68) or the bytes
of a frame in wire order (R60). -/
inductive Encoded where
  | request (w : Request)
  | frame (bytes : List Byte)
deriving DecidableEq, Repr

end Sys2Proof
end

