-- ==== Sys2Proof/WellFormed.lean ====
section
/-! DEFINITION. Well-formed instructions, and the check that turns raw numbers into a configuration or
refuses them by name (00_scope.md R5). -/

namespace Sys2Proof

/-- A wire command's payload must be one its length byte can state (30_encoding.md R61); a request
carries nothing that could be ill formed. -/
def Instr.wellFormed : Instr → Bool
  | .nop _ => true
  | .crcInit _ => true
  | .crcByte _ => true
  | .pbClr _ => true
  | .pbPush _ => true
  | .fbClr _ => true
  | .fbPush _ => true
  | .fcEnc _ => true
  | .fcDec _ => true
  | .sdParse _ => true
  | .reservedA _ => true
  | .reservedB _ => true
  | .reservedC _ => true
  | .reservedD _ => true
  | .reservedE _ => true
  | .reservedF _ => true
  | .cmdQuery p _ _ => decide (p.length ≤ 255)
  | .cmdControl p _ _ => decide (p.length ≤ 255)
  | .cmdCounter p _ _ => decide (p.length ≤ 255)

/-- Why a configuration is refused (00_scope.md R5). -/
inductive CfgReject where
  /-- `MAXPAY` is not in 112..255 -/
  | maxPayOutOfRange
  /-- an offset is not in 0..111 -/
  | offsetOutsideBlock
  /-- an `OFF_L_VALUE[j]` is not in 0..108 -/
  | counterOutsideBlock
  /-- a flag descriptor's mask is zero -/
  | zeroMask
deriving DecidableEq, Repr

/-- A flag descriptor as bare numbers. -/
structure RawFlagDesc where
  off : Nat
  mask : Byte
  inv : Bool
deriving DecidableEq, Repr

/-- A configuration as bare numbers, before R5 is checked. -/
structure RawCfg where
  crcInit : Half
  crcRefin : Bool
  crcRefout : Bool
  crcXorout : Half
  cksumOrder : CksumOrder
  maxPay : Nat
  offState : Vector Nat 3
  offSignal : Vector Nat 3
  flagValve : RawFlagDesc
  flagDry : RawFlagDesc
  flagAutoClose : RawFlagDesc
  lineMode : Vector RawFlagDesc 4
  offValue : Vector Nat 4
  cntOrder : CntOrder
deriving DecidableEq, Repr

def checkOffset (n : Nat) : Except CfgReject (Fin 112) :=
  if h : n < 112 then .ok ⟨n, h⟩ else .error .offsetOutsideBlock

def checkCounterOffset (n : Nat) : Except CfgReject (Fin 109) :=
  if h : n < 109 then .ok ⟨n, h⟩ else .error .counterOutsideBlock

def RawFlagDesc.check (f : RawFlagDesc) : Except CfgReject FlagDesc := do
  let off ← checkOffset f.off
  if h : 0 < f.mask.toNat then .ok ⟨off, f.mask, f.inv, h⟩ else .error .zeroMask

/-- The configuration raw numbers stand for; refused by name when it is not well formed (R5). -/
def RawCfg.check (r : RawCfg) : Except CfgReject Cfg := do
  let st0 ← checkOffset r.offState[0]
  let st1 ← checkOffset r.offState[1]
  let st2 ← checkOffset r.offState[2]
  let sg0 ← checkOffset r.offSignal[0]
  let sg1 ← checkOffset r.offSignal[1]
  let sg2 ← checkOffset r.offSignal[2]
  let valve ← r.flagValve.check
  let dry ← r.flagDry.check
  let auto ← r.flagAutoClose.check
  let lm0 ← r.lineMode[0].check
  let lm1 ← r.lineMode[1].check
  let lm2 ← r.lineMode[2].check
  let lm3 ← r.lineMode[3].check
  let lv0 ← checkCounterOffset r.offValue[0]
  let lv1 ← checkCounterOffset r.offValue[1]
  let lv2 ← checkCounterOffset r.offValue[2]
  let lv3 ← checkCounterOffset r.offValue[3]
  if h : 112 ≤ r.maxPay ∧ r.maxPay ≤ 255 then
    .ok {
      crcInit := r.crcInit, crcRefin := r.crcRefin, crcRefout := r.crcRefout
      crcXorout := r.crcXorout, cksumOrder := r.cksumOrder, maxPay := r.maxPay
      layout := {
        offState := #v[st0, st1, st2], offSignal := #v[sg0, sg1, sg2], flagValve := valve
        flagDry := dry, flagAutoClose := auto, lineMode := #v[lm0, lm1, lm2, lm3]
        offValue := #v[lv0, lv1, lv2, lv3], cntOrder := r.cntOrder }
      maxPay_ge := h.1, maxPay_le := h.2 }
  else .error .maxPayOutOfRange

end Sys2Proof
end

