-- ==== Sys2Proof/Decode.lean ====
section
/-! DEFINITION. Decoding and encoding: request words (30_encoding.md R68 to R71), frames (R60 to R67),
and the written form of an operation (R73). -/

namespace Sys2Proof

/-- The command bytes of the three wire commands (00_scope.md R2). -/
def cmdQueryByte : Byte := 0x52
def cmdControlByte : Byte := 0x57
def cmdCounterByte : Byte := 0x58

/-- Why bytes are no frame of a wire command. The block itself still receives such bytes
(Sys2Proof/Machine/Serve.lean); the names follow the frame errors and the excess flag. -/
inductive DecodeReject where
  /-- fewer than 4 bytes (41_frame_codec.md R108, first case) -/
  | tooShort
  /-- fewer bytes than the length byte declares (R108, second case) -/
  | incomplete
  /-- bytes stand after the end of the frame (R111) -/
  | bytesAfterFrame
  /-- byte 0 is none of 0x52, 0x57, 0x58 (30_encoding.md R67) -/
  | unsupportedCommand
deriving DecidableEq, Repr

/-- `op`, bits 11:8 of a request word (30_encoding.md R68). -/
def reqOp (w : Request) : BitVec 4 := w.extractLsb' 8 4

/-- `data`, bits 7:0 of a request word (R68). -/
def reqData (w : Request) : Byte := w.extractLsb' 0 8

/-- The operation codes of 30_encoding.md R69 and the reserved codes of R71. Every one of the 4096
words has a meaning; the last row is `op = 0xF`, the only code left. -/
def decodeRequest (w : Request) : Instr :=
  match (reqOp w).toNat with
  | 0x0 => .nop (reqData w)
  | 0x1 => .crcInit (reqData w)
  | 0x2 => .crcByte (reqData w)
  | 0x3 => .pbClr (reqData w)
  | 0x4 => .pbPush (reqData w)
  | 0x5 => .fbClr (reqData w)
  | 0x6 => .fbPush (reqData w)
  | 0x7 => .fcEnc (reqData w)
  | 0x8 => .fcDec (reqData w)
  | 0x9 => .sdParse (reqData w)
  | 0xA => .reservedA (reqData w)
  | 0xB => .reservedB (reqData w)
  | 0xC => .reservedC (reqData w)
  | 0xD => .reservedD (reqData w)
  | 0xE => .reservedE (reqData w)
  | _ => .reservedF (reqData w)

/-- The wire command a command byte selects (30_encoding.md R64 to R67). -/
def wireCommand (c : Byte) (payload : List Byte) (ck0 ck1 : Byte) : Except DecodeReject Instr :=
  if c = cmdQueryByte then .ok (.cmdQuery payload ck0 ck1)
  else if c = cmdControlByte then .ok (.cmdControl payload ck0 ck1)
  else if c = cmdCounterByte then .ok (.cmdCounter payload ck0 ck1)
  else .error .unsupportedCommand

/-- The wire command that exactly these bytes are (30_encoding.md R60, R63): command, length, `length`
payload bytes, two checksum bytes, nothing after them. -/
def decodeFrame : List Byte → Except DecodeReject Instr
  | c :: l :: rest =>
    if rest.length < 2 then .error .tooShort
    else if rest.length < l.toNat + 2 then .error .incomplete
    else if l.toNat + 2 < rest.length then .error .bytesAfterFrame
    else wireCommand c (rest.take l.toNat) (rest.getD l.toNat 0) (rest.getD (l.toNat + 1) 0)
  | _ => .error .tooShort

/-- Decoding, total on every request word and every byte sequence. -/
def decode : Encoded → Except DecodeReject Instr
  | .request w => .ok (decodeRequest w)
  | .frame bytes => decodeFrame bytes

/-- A request word from its two fields (30_encoding.md R68, R73). -/
def mkRequest (op : BitVec 4) (data : Byte) : Request := op ++ data

/-- The bytes of a frame, given its two checksum bytes (30_encoding.md R60). -/
def frameBytes (c : Byte) (payload : List Byte) (ck0 ck1 : Byte) : List Byte :=
  c :: BitVec.ofNat 8 payload.length :: payload ++ [ck0, ck1]

/-- The encoding of an instruction. -/
def encode : Instr → Encoded
  | .nop d => .request (mkRequest 0x0 d)
  | .crcInit d => .request (mkRequest 0x1 d)
  | .crcByte d => .request (mkRequest 0x2 d)
  | .pbClr d => .request (mkRequest 0x3 d)
  | .pbPush d => .request (mkRequest 0x4 d)
  | .fbClr d => .request (mkRequest 0x5 d)
  | .fbPush d => .request (mkRequest 0x6 d)
  | .fcEnc c => .request (mkRequest 0x7 c)
  | .fcDec d => .request (mkRequest 0x8 d)
  | .sdParse d => .request (mkRequest 0x9 d)
  | .reservedA d => .request (mkRequest 0xA d)
  | .reservedB d => .request (mkRequest 0xB d)
  | .reservedC d => .request (mkRequest 0xC d)
  | .reservedD d => .request (mkRequest 0xD d)
  | .reservedE d => .request (mkRequest 0xE d)
  | .reservedF d => .request (mkRequest 0xF d)
  | .cmdQuery p ck0 ck1 => .frame (frameBytes cmdQueryByte p ck0 ck1)
  | .cmdControl p ck0 ck1 => .frame (frameBytes cmdControlByte p ck0 ck1)
  | .cmdCounter p ck0 ck1 => .frame (frameBytes cmdCounterByte p ck0 ck1)

/-- The written form of an operation (30_encoding.md R73): a mnemonic and the operand of the four
operations that have one. `none` when the line is no operation of R69; an operand that is ignored is
encoded as 0x00 (any value would do, R70). -/
def assemble (mnemonic : String) (operand : Option Byte) : Option Instr :=
  match mnemonic, operand with
  | "NOP", none => some (.nop 0)
  | "CRC.INIT", none => some (.crcInit 0)
  | "CRC.BYTE", some d => some (.crcByte d)
  | "PB.CLR", none => some (.pbClr 0)
  | "PB.PUSH", some d => some (.pbPush d)
  | "FB.CLR", none => some (.fbClr 0)
  | "FB.PUSH", some d => some (.fbPush d)
  | "FC.ENC", some c => some (.fcEnc c)
  | "FC.DEC", none => some (.fcDec 0)
  | "SD.PARSE", none => some (.sdParse 0)
  | _, _ => none

/-- The first `n` bytes of a number, byte 0 least significant: how spec/opcode_table.json numbers the
bits of a row. -/
def tableBytes : Nat → Nat → List Byte
  | 0, _ => []
  | n + 1, w => BitVec.ofNat 8 w :: tableBytes n (w / 256)

/-- A frame whose given first bytes are followed by zero bytes, up to the length it declares. -/
def completeFrame (bytes : List Byte) : List Byte :=
  bytes ++ List.replicate ((bytes.getD 1 0).toNat + 4 - bytes.length) 0

/-- What a row of spec/opcode_table.json stands for outside the block (log 12). The rows of width 12
(16 bits in whole bytes) are request words, and a 16-bit number above 0xFFF is none; the rows of
width 8 are frames whose further bytes are zero. -/
def tableEncoded (nbits w : Nat) : Option Encoded :=
  if nbits = 12 ∨ nbits = 16 then
    if w < 4096 then some (.request (BitVec.ofNat 12 w)) else none
  else some (.frame (completeFrame (tableBytes (nbits / 8) w)))

/-- The instruction the decoder reads from the bits of a table row. -/
def decodeTableWord (nbits w : Nat) : Option Instr :=
  match tableEncoded nbits w with
  | some e => (decode e).toOption
  | none => none

end Sys2Proof
end

