-- ==== Sys2Proof/Machine/State.lean ====
section
/-! DEFINITION. The state of the block (10_state.md), what the host does next, the reasons a step can
stop, and the state after reset (R32). -/

namespace Sys2Proof.Machine

/-- No step of the block faults: "The block cannot hang, and has no stuck state"
(70_reset_and_hazards.md R213). -/
inductive Fault where
deriving DecidableEq, Repr

/-- Why an instruction has no next state. -/
inductive Refusal where
  /-- Raised only by an arm of `exec` whose instruction has no meaning yet; there is none. Safe. -/
  | notModelled (mnemonic : String)
deriving DecidableEq, Repr

/-- The causes of 60_exceptions.md R180, codes 0 to 7. Codes 8 to 15 are never produced. -/
inductive Cause where
  | ok
  | tooShort
  | checksumMismatch
  | unknownCommand
  | invalidPayloadSize
  | unexpectedLength
  | bufFull
  | illegalOp
deriving DecidableEq, Repr

/-- The frame registers `FR_CMD`, `FR_LEN`, `FR_CKSUM` and the flag `FR_EXCESS` (10_state.md R20, R21). -/
structure FrameRegs where
  cmd : Byte
  len : Byte
  cksum : Half
  excess : Bool
deriving DecidableEq, Repr

/-- The sensor states (10_state.md R26, 90_conflicts.md C1). -/
inductive SensorState where
  | disconnected
  | triggered
  | normal
  | unknown
deriving DecidableEq, Repr

/-- The signal levels (10_state.md R26). -/
inductive SignalLevel where
  | level2of4
  | level3of4
  | unknown
deriving DecidableEq, Repr

/-- The modes of a wired line (10_state.md R27). -/
inductive LineMode where
  | sensor
  | counter
deriving DecidableEq, Repr

/-- One `SENS[i]` with its bit `BOOR[i]` (10_state.md R25, R26). -/
structure SensorReading where
  state : SensorState
  signal : SignalLevel
  batt : Byte
  boor : Bool
deriving DecidableEq, Repr

/-- One line: `L_MODE[j]`, `L_VALUE[j]` (10_state.md R27). -/
structure LineCounter where
  mode : LineMode
  value : Word
deriving DecidableEq, Repr

/-- The snapshot file `SNAP` (10_state.md R24 to R28). -/
structure Snapshot where
  valveOpen : Bool
  dryMode : Bool
  autoClose : Bool
  sensors : Vector SensorReading 3
  lines : Vector LineCounter 4
  raw : Vector Byte 112
deriving DecidableEq, Repr

/-- What the host can do to the block (10_state.md R30, 70_reset_and_hazards.md R202). -/
inductive HostInput where
  /-- present a request word, or deliver a received frame (log 9) -/
  | present (e : Encoded)
  /-- a read-port access (20_memory.md R41) -/
  | read (ra : Addr)
  /-- the reset input `rst` (70_reset_and_hazards.md R200) -/
  | reset
deriving DecidableEq, Repr

/-- The state. `pb` and `fb` hold the bytes that have a value, so that `PLEN` and `FLEN` are their
lengths (10_state.md R14 to R17, R29; log 5); `frame` and `snap` hold a record exactly while `FR_VALID`
and `SNAP_VALID` are 1 (R21, R24; log 6). `cfg` is no state of the block (R33; log 2); `rsp`, `rd`,
`inputs` and `draws` are the model's own (logs 1, 7, 8). -/
structure State where
  cfg : Cfg
  crc : Half
  pb : List Byte
  fb : List Byte
  err : Cause
  frame : Option FrameRegs
  snap : Option Snapshot
  /-- the response to the last operation (30_encoding.md R72), if one was given since reset -/
  rsp : Option Cause
  /-- the data of the last read-port access (20_memory.md R41), if there was one since reset -/
  rd : Option Word
  /-- what the host does next, first thing first -/
  inputs : List HostInput
  /-- how many free values the read port has shown (log 7) -/
  draws : Nat
deriving DecidableEq, Repr

/-- The state after reset of a block built with the configuration `c` (10_state.md R32), with nothing
for the host to do. -/
def State.resetOf (c : Cfg) : State where
  cfg := c
  crc := c.crcInit
  pb := []
  fb := []
  err := .ok
  frame := none
  snap := none
  rsp := none
  rd := none
  inputs := []
  draws := 0

/-- The machine right after reset (10_state.md R32), built with `Config.built` (logs 3, 4). -/
def State.reset : State := State.resetOf Config.built

end Sys2Proof.Machine
end

