-- ==== Sys2Proof/Machine/Operands.lean ====
section
/-! DEFINITION. The fixed sizes (00_scope.md R2, R6) and the ways bytes become operands: bit reversal
(00_scope.md section 5.1), the checksum's two wire bytes (41_frame_codec.md R101), the counter's four
bytes (42_state_decoder.md R139), flag descriptors (R137). -/

namespace Sys2Proof.Machine

/-- `CRC_POLY` (00_scope.md R2, 40_checksum_engine.md R80). -/
def crcPoly : Half := 0x1021

/-- `MINFRAME` = `HDR_LEN` + `CK_LEN` (00_scope.md R2). -/
def hdrLen : Nat := 2
def ckLen : Nat := 2
def minFrame : Nat := hdrLen + ckLen

/-- `STATE_LEN` (00_scope.md R2). -/
def stateLen : Nat := 112

/-- `OFF_S_BATT[0..2]` (00_scope.md R2, 42_state_decoder.md R131). -/
def offBatt : Vector (Fin 112) 3 := #v[53, 57, 61]

/-- `BATT_MAX` (00_scope.md R2). -/
def battMax : Nat := 100

/-- `PBCAP` (00_scope.md R6). -/
def pbCap : Nat := 256

/-- `FBCAP` = `MAXPAY + 4` (00_scope.md R6). -/
def fbCap (c : Cfg) : Nat := c.maxPay + minFrame

/-- The three supported wire commands (30_encoding.md R64 to R67). -/
def supportedCommand (c : Byte) : Bool :=
  c == cmdQueryByte || c == cmdControlByte || c == cmdCounterByte

/-- `rev8` (00_scope.md section 5.1). -/
def rev8 (v : Byte) : Byte := v.reverse

/-- `rev16` (00_scope.md section 5.1). -/
def rev16 (v : Half) : Half := v.reverse

/-- `ck_bytes` (41_frame_codec.md R101). -/
def ckBytes (c : Cfg) (k : Half) : Byte × Byte :=
  match c.cksumOrder with
  | .loFirst => (k.extractLsb' 0 8, k.extractLsb' 8 8)
  | .hiFirst => (k.extractLsb' 8 8, k.extractLsb' 0 8)

/-- `ck_value` (41_frame_codec.md R101). -/
def ckValue (c : Cfg) (b0 b1 : Byte) : Half :=
  match c.cksumOrder with
  | .loFirst => b1 ++ b0
  | .hiFirst => b0 ++ b1

/-- The byte at an index below a buffer's fill count. The operations never read at or above it
(10_state.md R29, 41_frame_codec.md R107), so the 0 beyond the list is never seen. -/
def byteAt (buf : List Byte) (i : Nat) : Byte := buf.getD i 0

/-- `flag` (42_state_decoder.md R137). -/
def flag (raw : Vector Byte 112) (d : FlagDesc) : Bool :=
  xor (raw.get d.off &&& d.mask != 0) d.inv

/-- The block's byte `k` places after the first byte of a counter value; R5 keeps it inside the block. -/
def counterByte (raw : Vector Byte 112) (off : Fin 109) (k : Fin 4) : Byte :=
  raw.get ⟨off.val + k.val, by omega⟩

/-- `u32` (42_state_decoder.md R139). -/
def u32 (o : CntOrder) (raw : Vector Byte 112) (off : Fin 109) : Word :=
  match o with
  | .le => counterByte raw off 3 ++ counterByte raw off 2 ++ counterByte raw off 1 ++ counterByte raw off 0
  | .be => counterByte raw off 0 ++ counterByte raw off 1 ++ counterByte raw off 2 ++ counterByte raw off 3

end Sys2Proof.Machine
end

