-- ==== Sys2Proof/Machine/Flags.lean ====
section
/-! DEFINITION. Status, flags and codes as the host reads them: cause codes (60_exceptions.md R180),
`STATUS` (10_state.md R18), the snapshot words (R25 to R27), and the fill counts (R15, R17). -/

namespace Sys2Proof.Machine

/-- The cause codes (60_exceptions.md R180). -/
def Cause.code : Cause → BitVec 4
  | .ok => 0
  | .tooShort => 1
  | .checksumMismatch => 2
  | .unknownCommand => 3
  | .invalidPayloadSize => 4
  | .unexpectedLength => 5
  | .bufFull => 6
  | .illegalOp => 7

/-- Whether a host that follows the source's policy retries after a cause: `none` where the source
assigns no class (60_exceptions.md R189). The block itself never retries. -/
def Cause.retriable : Cause → Option Bool
  | .checksumMismatch => some true
  | .unknownCommand => some false
  | .invalidPayloadSize => some false
  | .ok | .tooShort | .unexpectedLength | .bufFull | .illegalOp => none

/-- `S_STATE` (10_state.md R26, 42_state_decoder.md R134). -/
def SensorState.code : SensorState → BitVec 2
  | .disconnected => 0b00
  | .triggered => 0b10
  | .normal => 0b11
  | .unknown => 0b01

/-- `S_SIGNAL` (10_state.md R26, 42_state_decoder.md R135). -/
def SignalLevel.code : SignalLevel → BitVec 2
  | .level2of4 => 0b10
  | .level3of4 => 0b11
  | .unknown => 0b00

/-- `L_MODE` (10_state.md R27). -/
def LineMode.code : LineMode → BitVec 1
  | .sensor => 0
  | .counter => 1

/-- `PLEN` (10_state.md R15). -/
def State.plen (s : State) : BitVec 9 := BitVec.ofNat 9 s.pb.length

/-- `FLEN` (10_state.md R17). -/
def State.flen (s : State) : BitVec 9 := BitVec.ofNat 9 s.fb.length

/-- `FR_VALID` (10_state.md R18). -/
def State.frValid (s : State) : Bool := s.frame.isSome

/-- `FR_EXCESS` (10_state.md R18, R20). -/
def State.frExcess (s : State) : Bool :=
  match s.frame with
  | some f => f.excess
  | none => false

/-- `SNAP_VALID` (10_state.md R18, R22). -/
def State.snapValid (s : State) : Bool := s.snap.isSome

/-- The OR of the three `BOOR` bits of a snapshot (10_state.md R18). -/
def Snapshot.anyBoor (n : Snapshot) : Bool :=
  (n.sensors.get 0).boor || (n.sensors.get 1).boor || (n.sensors.get 2).boor

/-- `SNAP_BOOR`, a view (10_state.md R18). -/
def State.snapBoor (s : State) : Bool :=
  match s.snap with
  | some n => n.anyBoor
  | none => false

/-- `STATUS` (10_state.md R18). -/
def State.status (s : State) : BitVec 8 :=
  BitVec.ofBool s.snapBoor ++ BitVec.ofBool s.snapValid ++ BitVec.ofBool s.frExcess
    ++ BitVec.ofBool s.frValid ++ s.err.code

/-- `SNAP_FLAGS` (10_state.md R25). -/
def Snapshot.flags (n : Snapshot) : BitVec 7 :=
  BitVec.ofBool (n.sensors.get 2).boor ++ BitVec.ofBool (n.sensors.get 1).boor
    ++ BitVec.ofBool (n.sensors.get 0).boor ++ 0#1 ++ BitVec.ofBool n.autoClose
    ++ BitVec.ofBool n.dryMode ++ BitVec.ofBool n.valveOpen

/-- `SENS[i]` (10_state.md R26). -/
def SensorReading.word (r : SensorReading) : BitVec 16 :=
  r.batt ++ 0#4 ++ r.signal.code ++ r.state.code

/-- `LINE_MODE` (10_state.md R27). -/
def Snapshot.lineModes (n : Snapshot) : BitVec 4 :=
  (n.lines.get 3).mode.code ++ (n.lines.get 2).mode.code ++ (n.lines.get 1).mode.code
    ++ (n.lines.get 0).mode.code

end Sys2Proof.Machine
end

