-- ==== Sys2Proof/Machine/Ops.lean ====
section
/-! DEFINITION. The named updates of the state, the completion of an operation (with success or with
an error, 60_exceptions.md R184), reset (70_reset_and_hazards.md R200), and memory as cells. -/

namespace Sys2Proof.Machine

def State.setCrc (s : State) (v : Half) : State := { s with crc := v }
def State.setPb (s : State) (v : List Byte) : State := { s with pb := v }
def State.setFb (s : State) (v : List Byte) : State := { s with fb := v }
def State.setFrame (s : State) (v : Option FrameRegs) : State := { s with frame := v }
def State.setSnap (s : State) (v : Snapshot) : State := { s with snap := some v }
def State.setInputs (s : State) (v : List HostInput) : State := { s with inputs := v }
def State.setRd (s : State) (v : Word) : State := { s with rd := some v }
def State.addDraw (s : State) : State := { s with draws := s.draws + 1 }

/-- `ERR <- code ; rsp = code` (10_state.md R19, 60_exceptions.md R184). -/
def State.answer (s : State) (c : Cause) : State := { s with err := c, rsp := some c }

/-- An operation that answers without writing `ERR`: only `NOP` (43_buffer_ops.md R160). -/
def State.respond (s : State) (c : Cause) : State := { s with rsp := some c }

/-- The end of an operation that succeeds: `ERR <- 0 ; rsp = OK`. -/
def complete (s : State) : Host.Outcome State Fault Refusal := .next (s.answer .ok)

/-- TAKING AN ERROR, the block's one kind of exception (60_exceptions.md R184, 00_scope.md section
5.2): the failure writes of the operation are in `s`; `ERR` and the response carry the code, and that
is all. There is no handler, no saved state, no mode, and nothing to return from (R191). -/
def raise (c : Cause) (s : State) : Host.Outcome State Fault Refusal := .next (s.answer c)

/-- The reset input (70_reset_and_hazards.md R200 to R202, 10_state.md R32). The configuration is not
touched; what the host does next and the count of free values are the model's own and stay. -/
def State.resetInput (s : State) : State :=
  { State.resetOf s.cfg with inputs := s.inputs, draws := s.draws }

/-- Memory as a list of cells: the bytes of the three arrays that have a value, at their read-map
addresses (20_memory.md R40, R42). An address that is not listed has no value (10_state.md R29). -/
abbrev Memory := List Host.Cell

/-- Bytes as cells from a base address upwards. -/
def cellsFrom : Nat → List Byte → Memory
  | _, [] => []
  | a, b :: bs => (a, b) :: cellsFrom (a + 1) bs

/-- The canonical form: addresses strictly rising. -/
def Memory.wf : Memory → Bool
  | [] => true
  | [_] => true
  | (a, _) :: (b, y) :: m => decide (a < b) && Memory.wf ((b, y) :: m)

/-- One byte of memory, `none` where it has no value. -/
def Memory.read (a : Nat) : Memory → Option Byte
  | [] => none
  | (b, y) :: m => if a = b then some y else Memory.read a m

/-- The bytes of `RAW` that have a value: all or none (10_state.md R28, R29). -/
def State.rawBytes (s : State) : List Byte :=
  match s.snap with
  | some n => n.raw.toList
  | none => []

/-- The block's memory. -/
def State.memory (s : State) : Memory :=
  cellsFrom 0x000 s.pb ++ cellsFrom 0x100 s.fb ++ cellsFrom 0x300 s.rawBytes

end Sys2Proof.Machine
end

