-- ==== Sys2Proof/Machine/Buffers.lean ====
section
/-! DEFINITION. Buffer and housekeeping operations, and the reserved codes (43_buffer_ops.md). -/

namespace Sys2Proof.Machine

/-- `NOP` (43_buffer_ops.md R160): writes nothing, not even `ERR`. -/
def execNop (_data : Byte) (s : State) : Host.Outcome State Fault Refusal := .next (s.respond .ok)

/-- `PB.CLR` (43_buffer_ops.md R161). -/
def execPbClr (_data : Byte) (s : State) : Host.Outcome State Fault Refusal := complete (s.setPb [])

/-- `PB.PUSH d` (43_buffer_ops.md R162). `PLEN` never exceeds `PBCAP` (log 14). -/
def execPbPush (d : Byte) (s : State) : Host.Outcome State Fault Refusal :=
  if s.pb.length < pbCap then complete (s.setPb (s.pb ++ [d])) else raise .bufFull s

/-- `FB.CLR` (43_buffer_ops.md R163). -/
def execFbClr (_data : Byte) (s : State) : Host.Outcome State Fault Refusal := complete (s.setFb [])

/-- `FB.PUSH d` (43_buffer_ops.md R164). `FLEN` never exceeds `FBCAP` (log 14). -/
def execFbPush (d : Byte) (s : State) : Host.Outcome State Fault Refusal :=
  if s.fb.length < fbCap s.cfg then complete (s.setFb (s.fb ++ [d])) else raise .bufFull s

/-- Reserved operation code 0xA (43_buffer_ops.md R165). -/
def execReservedA (_data : Byte) (s : State) : Host.Outcome State Fault Refusal := raise .illegalOp s

/-- Reserved operation code 0xB (43_buffer_ops.md R165). -/
def execReservedB (_data : Byte) (s : State) : Host.Outcome State Fault Refusal := raise .illegalOp s

/-- Reserved operation code 0xC (43_buffer_ops.md R165). -/
def execReservedC (_data : Byte) (s : State) : Host.Outcome State Fault Refusal := raise .illegalOp s

/-- Reserved operation code 0xD (43_buffer_ops.md R165). -/
def execReservedD (_data : Byte) (s : State) : Host.Outcome State Fault Refusal := raise .illegalOp s

/-- Reserved operation code 0xE (43_buffer_ops.md R165). -/
def execReservedE (_data : Byte) (s : State) : Host.Outcome State Fault Refusal := raise .illegalOp s

/-- Reserved operation code 0xF (43_buffer_ops.md R165). -/
def execReservedF (_data : Byte) (s : State) : Host.Outcome State Fault Refusal := raise .illegalOp s

end Sys2Proof.Machine
end

