-- ==== Sys2Proof/Machine/Checksum.lean ====
section
/-! DEFINITION. The Checksum Engine (40_checksum_engine.md). -/

namespace Sys2Proof.Machine

/-- One shift of the register: the loop body of 40_checksum_engine.md R82. -/
def crcShift (c : Half) : Half := if c.msb then (c <<< 1) ^^^ crcPoly else c <<< 1

/-- `crc_step` (40_checksum_engine.md R82). -/
def crcStep (cfg : Cfg) (c : Half) (d : Byte) : Half :=
  Nat.repeat crcShift 8 (c ^^^ ((if cfg.crcRefin then rev8 d else d) ++ 0#8))

/-- `crc_acc` (40_checksum_engine.md R83). -/
def crcAcc (cfg : Cfg) (s : List Byte) : Half := s.foldl (crcStep cfg) cfg.crcInit

/-- `crc_fin` (40_checksum_engine.md R84). -/
def crcFin (cfg : Cfg) (c : Half) : Half := (if cfg.crcRefout then rev16 c else c) ^^^ cfg.crcXorout

/-- `crc16ccitt` (40_checksum_engine.md R85). -/
def crc16ccitt (cfg : Cfg) (s : List Byte) : Half := crcFin cfg (crcAcc cfg s)

/-- `CRC_OUT`, a view (10_state.md R13). -/
def State.crcOut (s : State) : Half := crcFin s.cfg s.crc

/-- `CRC.INIT` (40_checksum_engine.md R86). -/
def execCrcInit (_data : Byte) (s : State) : Host.Outcome State Fault Refusal :=
  complete (s.setCrc s.cfg.crcInit)

/-- `CRC.BYTE d` (40_checksum_engine.md R87). -/
def execCrcByte (d : Byte) (s : State) : Host.Outcome State Fault Refusal :=
  complete (s.setCrc (crcStep s.cfg s.crc d))

end Sys2Proof.Machine
end

