-- ==== Sys2Proof/Machine/FrameCodec.lean ====
section
/-! DEFINITION. The Frame Codec: the functions `encode` and `decode` of 41_frame_codec.md (here
`frameEncode`, `frameDecode`), the operations `FC.ENC` and `FC.DEC`, and the three wire commands. -/

namespace Sys2Proof.Machine

/-- A decoded frame (41_frame_codec.md R100) and whether bytes stood after it (R111). -/
structure Frame where
  command : Byte
  length : Byte
  payload : List Byte
  checksum : Half
  excess : Bool
deriving DecidableEq, Repr

/-- The bytes a frame's checksum covers: `[cmd, len(p)] ++ p` (30_encoding.md R62). -/
def coveredBytes (cmd : Byte) (p : List Byte) : List Byte := cmd :: BitVec.ofNat 8 p.length :: p

/-- `encode(cmd, p)`; `none` is `InvalidPayloadSize` (41_frame_codec.md R102). -/
def frameEncode (cfg : Cfg) (cmd : Byte) (p : List Byte) : Option (List Byte) :=
  if cfg.maxPay < p.length then none
  else
    let h := coveredBytes cmd p
    let ck := ckBytes cfg (crc16ccitt cfg h)
    some (h ++ [ck.1, ck.2])

/-- `decode(s)` (41_frame_codec.md R106). -/
def frameDecode (cfg : Cfg) (s : List Byte) : Except Cause Frame :=
  if s.length < minFrame then .error .tooShort
  else
    let l := (byteAt s 1).toNat
    if s.length < l + minFrame then .error .tooShort
    else
      let r := ckValue cfg (byteAt s (l + 2)) (byteAt s (l + 3))
      if crc16ccitt cfg (s.take (l + 2)) ≠ r then .error .checksumMismatch
      else if supportedCommand (byteAt s 0) = false then .error .unknownCommand
      else .ok {
        command := byteAt s 0, length := byteAt s 1, payload := (s.drop 2).take l
        checksum := r, excess := decide (l + minFrame < s.length) }

/-- `FC.ENC c` (41_frame_codec.md R103). -/
def execFcEnc (c : Byte) (s : State) : Host.Outcome State Fault Refusal :=
  if s.cfg.maxPay < s.pb.length then raise .invalidPayloadSize (s.setFb [])
  else
    let a := crcAcc s.cfg (coveredBytes c s.pb)
    let ck := ckBytes s.cfg (crcFin s.cfg a)
    complete ((s.setFb (frameBytes c s.pb ck.1 ck.2)).setCrc a)

/-- `fail(cause)` of 41_frame_codec.md R107: no frame, no payload, the cause. -/
def decodeFail (c : Cause) (s : State) : Host.Outcome State Fault Refusal :=
  raise c ((s.setFrame none).setPb [])

/-- The pseudocode of `FC.DEC` on what `FB` holds (41_frame_codec.md R107). -/
def decodeFb (s : State) : Host.Outcome State Fault Refusal :=
  if s.fb.length < minFrame then decodeFail .tooShort s
  else
    let l := (byteAt s.fb 1).toNat
    if s.fb.length < l + minFrame then decodeFail .tooShort s
    else
      let a := crcAcc s.cfg (s.fb.take (l + 2))
      let r := ckValue s.cfg (byteAt s.fb (l + 2)) (byteAt s.fb (l + 3))
      if crcFin s.cfg a ≠ r then decodeFail .checksumMismatch (s.setCrc a)
      else if supportedCommand (byteAt s.fb 0) = false then decodeFail .unknownCommand (s.setCrc a)
      else
        complete (((s.setCrc a).setFrame (some {
          cmd := byteAt s.fb 0, len := byteAt s.fb 1, cksum := r
          excess := decide (l + minFrame < s.fb.length) })).setPb ((s.fb.drop 2).take l))

/-- `FC.DEC` (41_frame_codec.md R107). -/
def execFcDec (_data : Byte) (s : State) : Host.Outcome State Fault Refusal := decodeFb s

/-- A received frame goes through the codec: what `FB.LOAD bytes` (30_encoding.md R74) and then `FC.DEC`
leave. Bytes beyond `FBCAP` are dropped (43_buffer_ops.md R164). DESIGN CHOICE, log 9. -/
def receiveFrame (bytes : List Byte) (s : State) : Host.Outcome State Fault Refusal :=
  decodeFb (s.setFb (bytes.take (fbCap s.cfg)))

/-- Wire command 0x52 (30_encoding.md R64): a frame with this command and checksum bytes is received. -/
def execCmdQuery (p : List Byte) (ck0 ck1 : Byte) (s : State) : Host.Outcome State Fault Refusal :=
  receiveFrame (frameBytes cmdQueryByte p ck0 ck1) s

/-- Wire command 0x57 (30_encoding.md R65): a frame with this command and checksum bytes is received. -/
def execCmdControl (p : List Byte) (ck0 ck1 : Byte) (s : State) : Host.Outcome State Fault Refusal :=
  receiveFrame (frameBytes cmdControlByte p ck0 ck1) s

/-- Wire command 0x58 (30_encoding.md R66): a frame with this command and checksum bytes is received. -/
def execCmdCounter (p : List Byte) (ck0 ck1 : Byte) (s : State) : Host.Outcome State Fault Refusal :=
  receiveFrame (frameBytes cmdCounterByte p ck0 ck1) s

end Sys2Proof.Machine
end

