-- ==== Sys2Proof/Machine/StateDecoder.lean ====
section
/-! DEFINITION. The State Decoder (42_state_decoder.md). -/

namespace Sys2Proof.Machine

/-- `batt(b)` (42_state_decoder.md R132): the magnitude of the signed byte as a mathematical integer,
clamped to 100 and flagged above it. -/
def batt (b : Byte) : Byte × Bool :=
  let m := b.toInt.natAbs
  if battMax < m then (BitVec.ofNat 8 battMax, true) else (BitVec.ofNat 8 m, false)

/-- `sstate(b)` (42_state_decoder.md R134): the whole byte is compared. -/
def sstate (b : Byte) : SensorState :=
  if b = 0x00 then .disconnected
  else if b = 0x02 then .triggered
  else if b = 0x03 then .normal
  else .unknown

/-- `ssignal(b)` (42_state_decoder.md R135). -/
def ssignal (b : Byte) : SignalLevel :=
  if b = 0x02 then .level2of4
  else if b = 0x03 then .level3of4
  else .unknown

/-- Sensor `i` of a block (42_state_decoder.md R131, R136). -/
def parseSensor (l : Layout) (raw : Vector Byte 112) (i : Fin 3) : SensorReading where
  state := sstate (raw.get (l.offState.get i))
  signal := ssignal (raw.get (l.offSignal.get i))
  batt := (batt (raw.get (offBatt.get i))).1
  boor := (batt (raw.get (offBatt.get i))).2

/-- Line `j` of a block (42_state_decoder.md R140): false is Sensor, true is Counter. -/
def parseLine (l : Layout) (raw : Vector Byte 112) (j : Fin 4) : LineCounter where
  mode := if flag raw (l.lineMode.get j) then .counter else .sensor
  value := u32 l.cntOrder raw (l.offValue.get j)

/-- `parse` of a block of the right length (42_state_decoder.md R141). -/
def parse (l : Layout) (raw : Vector Byte 112) : Snapshot where
  valveOpen := flag raw l.flagValve
  dryMode := flag raw l.flagDry
  autoClose := flag raw l.flagAutoClose
  sensors := #v[parseSensor l raw 0, parseSensor l raw 1, parseSensor l raw 2]
  lines := #v[parseLine l raw 0, parseLine l raw 1, parseLine l raw 2, parseLine l raw 3]
  raw := raw

/-- Bytes as a block of exactly `STATE_LEN` bytes; `none` is `UnexpectedLength` (42_state_decoder.md R130). -/
def asBlock (s : List Byte) : Option (Vector Byte 112) :=
  if h : s.length = stateLen then some ⟨s.toArray, by simpa [stateLen] using h⟩ else none

/-- `SD.PARSE` (42_state_decoder.md R142). -/
def execSdParse (_data : Byte) (s : State) : Host.Outcome State Fault Refusal :=
  match asBlock s.pb with
  | none => raise .unexpectedLength s
  | some raw => complete (s.setSnap (parse s.cfg.layout raw))

end Sys2Proof.Machine
end

