-- ==== Sys2Proof/Machine/Dispatch.lean ====
section
/-! DEFINITION. One arm per instruction. -/

namespace Sys2Proof.Machine

def exec (i : Instr) (s : State) : Host.Outcome State Fault Refusal :=
  match i with
  | .nop data => Sys2Proof.Machine.execNop data s
  | .crcInit data => Sys2Proof.Machine.execCrcInit data s
  | .crcByte d => Sys2Proof.Machine.execCrcByte d s
  | .pbClr data => Sys2Proof.Machine.execPbClr data s
  | .pbPush d => Sys2Proof.Machine.execPbPush d s
  | .fbClr data => Sys2Proof.Machine.execFbClr data s
  | .fbPush d => Sys2Proof.Machine.execFbPush d s
  | .fcEnc c => Sys2Proof.Machine.execFcEnc c s
  | .fcDec data => Sys2Proof.Machine.execFcDec data s
  | .sdParse data => Sys2Proof.Machine.execSdParse data s
  | .reservedA data => Sys2Proof.Machine.execReservedA data s
  | .reservedB data => Sys2Proof.Machine.execReservedB data s
  | .reservedC data => Sys2Proof.Machine.execReservedC data s
  | .reservedD data => Sys2Proof.Machine.execReservedD data s
  | .reservedE data => Sys2Proof.Machine.execReservedE data s
  | .reservedF data => Sys2Proof.Machine.execReservedF data s
  | .cmdQuery p ck0 ck1 => Sys2Proof.Machine.execCmdQuery p ck0 ck1 s
  | .cmdControl p ck0 ck1 => Sys2Proof.Machine.execCmdControl p ck0 ck1 s
  | .cmdCounter p ck0 ck1 => Sys2Proof.Machine.execCmdCounter p ck0 ck1 s

end Sys2Proof.Machine
end

