-- ==== Sys2Proof/Machine/ReadPort.lean ====
section
/-! DEFINITION. The read port and the read map (20_memory.md R41 to R43). -/

namespace Sys2Proof.Machine

/-- A location of the read map (20_memory.md R42). -/
inductive Loc where
  | pb (i : Nat)
  | fb (i : Nat)
  | raw (i : Fin 112)
  | crc
  | crcOut
  | plen
  | flen
  | status
  | frCmd
  | frLen
  | frCksum
  | snapFlags
  | lineMode
  | sens (i : Fin 3)
  | lValue (j : Fin 4)
  | unmapped
deriving DecidableEq, Repr

/-- The register at a read-map address (20_memory.md R42). -/
def locateRegister : Nat → Loc
  | 0x400 => .crc
  | 0x401 => .crcOut
  | 0x402 => .plen
  | 0x403 => .flen
  | 0x404 => .status
  | 0x405 => .frCmd
  | 0x406 => .frLen
  | 0x407 => .frCksum
  | 0x408 => .snapFlags
  | 0x409 => .lineMode
  | 0x410 => .sens 0
  | 0x411 => .sens 1
  | 0x412 => .sens 2
  | 0x418 => .lValue 0
  | 0x419 => .lValue 1
  | 0x41A => .lValue 2
  | 0x41B => .lValue 3
  | _ => .unmapped

/-- The location at an address (20_memory.md R42): the three arrays, then the registers. -/
def locate (c : Cfg) (ra : Addr) : Loc :=
  if ra.toNat < 0x100 then .pb ra.toNat
  else if ra.toNat < 0x100 + fbCap c then .fb (ra.toNat - 0x100)
  else if h : 0x300 ≤ ra.toNat ∧ ra.toNat < 0x370 then .raw ⟨ra.toNat - 0x300, by omega⟩
  else locateRegister ra.toNat

/-- The width of a location (20_memory.md R42). -/
def Loc.width : Loc → Nat
  | .pb _ | .fb _ | .raw _ => 8
  | .crc | .crcOut => 16
  | .plen | .flen => 9
  | .status => 8
  | .frCmd | .frLen => 8
  | .frCksum => 16
  | .snapFlags => 7
  | .lineMode => 4
  | .sens _ => 16
  | .lValue _ => 32
  | .unmapped => 32

/-- What a location holds, zero-extended (20_memory.md R42); `none` where it has no architectural value
(10_state.md R29). An unmapped address reads 0 (20_memory.md R43). -/
def State.valueOf (s : State) : Loc → Option Word
  | .pb i => s.pb[i]?.map (·.setWidth 32)
  | .fb i => s.fb[i]?.map (·.setWidth 32)
  | .raw i => s.snap.map fun n => (n.raw.get i).setWidth 32
  | .crc => some (s.crc.setWidth 32)
  | .crcOut => some (s.crcOut.setWidth 32)
  | .plen => some (s.plen.setWidth 32)
  | .flen => some (s.flen.setWidth 32)
  | .status => some (s.status.setWidth 32)
  | .frCmd => s.frame.map fun f => f.cmd.setWidth 32
  | .frLen => s.frame.map fun f => f.len.setWidth 32
  | .frCksum => s.frame.map fun f => f.cksum.setWidth 32
  | .snapFlags => s.snap.map fun n => n.flags.setWidth 32
  | .lineMode => s.snap.map fun n => n.lineModes.setWidth 32
  | .sens i => s.snap.map fun n => (n.sensors.get i).word.setWidth 32
  | .lValue j => s.snap.map fun n => (n.lines.get j).value
  | .unmapped => some 0

/-- The architectural value at a read-map address, `none` where there is none. -/
def State.valueAt (s : State) (ra : Addr) : Option Word := s.valueOf (locate s.cfg ra)

/-- A free value of a location's width, zero-extended (10_state.md R29; log 7). -/
def freeOfWidth (w n : Nat) : Word := ((Config.freeRead n).setWidth w).setWidth 32

/-- A read-port access (20_memory.md R41): it changes no state of the block. A location without a value
shows the next free value, so that two reads need not agree (10_state.md R29). -/
def readPort (ra : Addr) (s : State) : State :=
  match s.valueAt ra with
  | some v => s.setRd v
  | none => (s.setRd (freeOfWidth (locate s.cfg ra).width s.draws)).addDraw

end Sys2Proof.Machine
end

