-- ==== Sys2Proof/Machine/Serve.lean ====
section
/-! DEFINITION. What the block does with what the host presents, one thing at a time
(70_reset_and_hazards.md R202, R205), sequences of operations (30_encoding.md R73, R74), and how an
instruction is placed where the next step takes it. -/

namespace Sys2Proof.Machine

/-- The instruction presented is decoded and performed. Bytes that are no frame of a wire command (too
short, longer than they declare, another command byte) are received all the same: the codec has an
answer for every byte sequence (41_frame_codec.md R106, R111; log 10). -/
def serveEncoded (e : Encoded) (s : State) : Host.Outcome State Fault Refusal :=
  match e with
  | .request w => exec (decodeRequest w) s
  | .frame bytes =>
    match decodeFrame bytes with
    | .ok i => exec i s
    | .error _ => receiveFrame bytes s

/-- One thing the host does: an operation step, a read-port access, or a reset step
(70_reset_and_hazards.md R202, 20_memory.md R50). -/
def serve (h : HostInput) (s : State) : Host.Outcome State Fault Refusal :=
  match h with
  | .present e => serveEncoded e s
  | .read ra => .next (readPort ra s)
  | .reset => .next s.resetInput

/-- The first thing the host has to do is done; with nothing to do, nothing happens
(60_exceptions.md R192). -/
def serveNext (s : State) : Host.Outcome State Fault Refusal :=
  match s.inputs with
  | [] => .next s
  | h :: rest => serve h (s.setInputs rest)

/-- `s` with what a table row stands for as the first thing the host presents (log 12). -/
def State.presentTableWord (s : State) (nbits w : Nat) : State :=
  match tableEncoded nbits w with
  | some e => s.setInputs (.present e :: s.inputs)
  | none => s

/-- The operations of a list one after the other, each completely before the next (20_memory.md R50). -/
def execAll : List Instr → State → Host.Outcome State Fault Refusal
  | [], s => .next s
  | i :: is, s =>
    match exec i s with
    | .next t => execAll is t
    | .fault r => .fault r
    | .refused r => .refused r

/-- `CRC.SEQ s` (30_encoding.md R74). -/
def crcSeq (s : List Byte) : List Instr := .crcInit 0 :: s.map .crcByte

/-- `PB.LOAD s` (30_encoding.md R74). -/
def pbLoad (s : List Byte) : List Instr := .pbClr 0 :: s.map .pbPush

/-- `FB.LOAD s` (30_encoding.md R74). -/
def fbLoad (s : List Byte) : List Instr := .fbClr 0 :: s.map .fbPush

end Sys2Proof.Machine
end

