-- ==== Sys2Proof/Machine/Step.lean ====
section
/-! DEFINITION. One step of the machine. -/

namespace Sys2Proof.Machine

/-- One step: the block does the first thing the host presents (70_reset_and_hazards.md R202, R205). -/
def step (s : State) : Host.Outcome State Fault Refusal := serveNext s

/-- `s` with an instruction, given as the bits of a table row, placed so that the next step runs it. -/
def State.withFetchWord (s : State) (nbits w : Nat) : State := s.presentTableWord nbits w

end Sys2Proof.Machine
end

