-- ==== Sys2Proof/Safety.lean ====
section
/-! DEFINITION. The terms the claims are stated in: going on, the invariant, streams of checksum
operations, a flipped bit, and which operations a rule lists. -/

namespace Sys2Proof

/-- The six reserved codes (30_encoding.md R71). -/
def Instr.isReserved : Instr → Bool
  | .reservedA _ | .reservedB _ | .reservedC _ | .reservedD _ | .reservedE _ | .reservedF _ => true
  | _ => false

/-- The three wire commands (30_encoding.md R64 to R66). -/
def Instr.isWire : Instr → Bool
  | .cmdQuery _ _ _ | .cmdControl _ _ _ | .cmdCounter _ _ _ => true
  | _ => false

/-- `FC.DEC`, or a wire command, which ends in one. -/
def Instr.decodesFrame : Instr → Bool
  | .fcDec _ => true
  | i => Instr.isWire i

/-- The operations that may write `CRC` (10_state.md R34). -/
def Instr.mayWriteCrc : Instr → Bool
  | .crcInit _ | .crcByte _ | .fcEnc _ => true
  | i => Instr.decodesFrame i

/-- The operations that may write `PB` and `PLEN` (10_state.md R34). -/
def Instr.mayWritePb : Instr → Bool
  | .pbClr _ | .pbPush _ => true
  | i => Instr.decodesFrame i

/-- The operations that may write `FB` and `FLEN` (10_state.md R34); a received frame is put into `FB`. -/
def Instr.mayWriteFb : Instr → Bool
  | .fbClr _ | .fbPush _ | .fcEnc _ => true
  | i => Instr.isWire i

end Sys2Proof

namespace Sys2Proof.Machine

/-- The machine goes on: no fault, no refusal. -/
def GoesOn (o : Host.Outcome State Fault Refusal) : Prop := ∃ t, o = .next t

/-- The buffers hold no more than their capacities (10_state.md R15, R17). -/
structure State.BuffersFit (s : State) : Prop where
  pb_le : s.pb.length ≤ pbCap
  fb_le : s.fb.length ≤ fbCap s.cfg

/-- What every state the block can be in satisfies. The fill counts are in range (10_state.md R15,
R17); a frame held is one `FC.DEC` can have accepted (41_frame_codec.md R110, R114); every field of a
snapshot is the decoding of its `RAW` (42_state_decoder.md R144). -/
structure State.Inv (s : State) : Prop extends s.BuffersFit where
  frame_supported : ∀ f, s.frame = some f → supportedCommand f.cmd = true
  frame_len : ∀ f, s.frame = some f → f.len.toNat ≤ s.cfg.maxPay
  snap_parsed : ∀ n, s.snap = some n → n = parse s.cfg.layout n.raw

/-- `FC.DEC` would fail one of its two length tests (41_frame_codec.md R108). -/
def State.fbTooShort (s : State) : Prop :=
  s.fb.length < 4 ∨ s.fb.length < (byteAt s.fb 1).toNat + 4

/-- The operations that 40_checksum_engine.md R91 lists as not writing `CRC`, in the state they run in. -/
def KeepsCrc (s : State) : Instr → Prop
  | .nop _ | .pbClr _ | .pbPush _ | .fbClr _ | .fbPush _ | .sdParse _ => True
  | .reservedA _ | .reservedB _ | .reservedC _ | .reservedD _ | .reservedE _ | .reservedF _ => True
  | .fcEnc _ => s.cfg.maxPay < s.pb.length
  | .fcDec _ => s.fbTooShort
  | .crcInit _ | .crcByte _ => False
  | .cmdQuery _ _ _ | .cmdControl _ _ _ | .cmdCounter _ _ _ => False

/-- From the first state to the second the host issues `CRC.BYTE` for the bytes of the list, in order,
with any operations that keep `CRC` between them (40_checksum_engine.md R91). -/
inductive Streams : State → List Byte → State → Prop where
  | done (s : State) : Streams s [] s
  | byte (s t u : State) (d : Byte) (bs : List Byte) :
      exec (.crcByte d) s = .next t → Streams t bs u → Streams s (d :: bs) u
  | other (s t u : State) (i : Instr) (bs : List Byte) :
      KeepsCrc s i → exec i s = .next t → Streams t bs u → Streams s bs u

/-- The byte sequence with bit `k` of byte `i` flipped. -/
def flipBit (s : List Byte) (i : Nat) (k : Fin 8) : List Byte :=
  s.set i (byteAt s i ^^^ BitVec.twoPow 8 k.val)

end Sys2Proof.Machine
end

