-- ==== Sys2Proof/Certificates/Slice0/Obligations.lean ====
section
/-! DEFINITION. The statements for the provers. -/

open Sys2Proof Sys2Proof.Machine

/-! ### Encodings -/

/-- Words and frames written out from 30_encoding.md R60, R69 and R71 and the examples of
95_test_vectors.md decode to the instructions they stand for, and an ill-formed frame is refused. -/
def Obligations.WrittenOutWordsDecode : Prop :=
  decode (.request 0x0FF) = .ok (.nop 0xFF) ∧
  decode (.request 0x1A5) = .ok (.crcInit 0xA5) ∧
  decode (.request 0x231) = .ok (.crcByte 0x31) ∧
  decode (.request 0x300) = .ok (.pbClr 0x00) ∧
  decode (.request 0x4FF) = .ok (.pbPush 0xFF) ∧
  decode (.request 0x500) = .ok (.fbClr 0x00) ∧
  decode (.request 0x6D3) = .ok (.fbPush 0xD3) ∧
  decode (.request 0x757) = .ok (.fcEnc 0x57) ∧
  decode (.request 0x800) = .ok (.fcDec 0x00) ∧
  decode (.request 0x900) = .ok (.sdParse 0x00) ∧
  decode (.request 0xA55) = .ok (.reservedA 0x55) ∧
  decode (.request 0xF00) = .ok (.reservedF 0x00) ∧
  decode (.frame [0x52, 0x00, 0xD2, 0x75]) = .ok (.cmdQuery [] 0xD2 0x75) ∧
  decode (.frame [0x57, 0x06, 0x01, 0x00, 0x00, 0x00, 0x00, 0x00, 0xC7, 0xD9]) =
    .ok (.cmdControl [0x01, 0x00, 0x00, 0x00, 0x00, 0x00] 0xC7 0xD9) ∧
  decode (.frame [0x58, 0x05, 0x02, 0x78, 0x56, 0x34, 0x12, 0x8C, 0x5F]) =
    .ok (.cmdCounter [0x02, 0x78, 0x56, 0x34, 0x12] 0x8C 0x5F) ∧
  decode (.frame [0x53, 0x01, 0xAA, 0x93, 0xEC]) = .error .unsupportedCommand ∧
  decode (.frame [0x52, 0x01, 0xD2, 0x75]) = .error .incomplete

/-- 30_encoding.md R60, R68: decoding what a well-formed instruction encodes to gives it back. -/
def Obligations.DecodeInvertsEncode : Prop :=
  ∀ i : Instr, i.wellFormed = true → decode (encode i) = .ok i

/-- 30_encoding.md R68 to R71: every request word has a meaning, and whatever decodes is the encoding of
the one well-formed instruction it decodes to. -/
def Obligations.EncodeInvertsDecode : Prop :=
  (∀ w : Request, ∃ i, decode (.request w) = .ok i) ∧
  ∀ (e : Encoded) (i : Instr), decode e = .ok i → encode i = e ∧ i.wellFormed = true

/-- 30_encoding.md R70: where `data` is ignored, all 256 values behave alike. -/
def Obligations.IgnoredDataHasNoEffect : Prop :=
  ∀ (d e : Byte) (s : State),
    exec (.nop d) s = exec (.nop e) s ∧
    exec (.crcInit d) s = exec (.crcInit e) s ∧
    exec (.pbClr d) s = exec (.pbClr e) s ∧
    exec (.fbClr d) s = exec (.fbClr e) s ∧
    exec (.fcDec d) s = exec (.fcDec e) s ∧
    exec (.sdParse d) s = exec (.sdParse e) s ∧
    exec (.reservedA d) s = exec (.reservedA e) s ∧
    exec (.reservedB d) s = exec (.reservedB e) s ∧
    exec (.reservedC d) s = exec (.reservedC e) s ∧
    exec (.reservedD d) s = exec (.reservedD e) s ∧
    exec (.reservedE d) s = exec (.reservedE e) s ∧
    exec (.reservedF d) s = exec (.reservedF e) s

/-! ### The step -/

/-- A step performs the instruction that the first thing presented decodes to; received bytes that are
no wire command go through the codec all the same (logs 1, 10: the model's own form of the host). -/
def Obligations.StepPerformsWhatIsPresented : Prop :=
  ∀ (s : State) (rest : List HostInput),
    (∀ (e : Encoded) (i : Instr), s.inputs = .present e :: rest → decode e = .ok i →
      step s = exec i { s with inputs := rest }) ∧
    (∀ (bs : List Byte) (r : DecodeReject), s.inputs = .present (.frame bs) :: rest →
      decode (.frame bs) = .error r → step s = receiveFrame bs { s with inputs := rest }) ∧
    (s.inputs = [] → step s = .next s)

/-- 70_reset_and_hazards.md R213: every step goes on, and every operation gives a response. -/
def Obligations.EveryOperationAnswers : Prop :=
  (∀ s : State, GoesOn (step s)) ∧
  (∀ (i : Instr) (s : State), ∃ t c, exec i s = .next t ∧ t.rsp = some c) ∧
  ∀ (s t : State) (e : Encoded) (rest : List HostInput), s.inputs = .present e :: rest →
    step s = .next t → t.inputs = rest ∧ ∃ c, t.rsp = some c

/-- Every step keeps the invariant: the fill counts stay in range, a frame held is a supported one, a
snapshot is the decoding of its own `RAW`. -/
def Obligations.StepKeepsInvariant : Prop :=
  ∀ s t : State, s.Inv → step s = .next t → t.Inv

/-- The invariant holds after reset, whatever the configuration. -/
def Obligations.ResetSatisfiesInvariant : Prop :=
  (∀ c : Cfg, (State.resetOf c).Inv) ∧ State.reset.Inv

/-- The memory of every state a step leads to is canonical; reading it gives the bytes of `PB` and `FB`
that have a value, the bytes of `RAW` with a snapshot and nothing without one, and nothing at any other
address. That memory is a view as cells, and what an unlisted address reads as, is the model's own
(log 5). -/
def Obligations.StepKeepsMemoryCanonical : Prop :=
  ∀ s t : State, s.Inv → step s = .next t →
    t.memory.wf = true ∧
    (∀ a, a < 256 → Memory.read a t.memory = t.pb[a]?) ∧
    (∀ a, a < fbCap t.cfg → Memory.read (0x100 + a) t.memory = t.fb[a]?) ∧
    (∀ k : Fin 112, Memory.read (0x300 + k.val) t.memory = t.snap.map fun n => n.raw.get k) ∧
    ∀ a, (0x100 + fbCap t.cfg ≤ a ∧ a < 0x300) ∨ 0x370 ≤ a → Memory.read a t.memory = none

/-- 10_state.md section 8: no step writes the configuration. -/
def Obligations.ConfigurationIsNeverWritten : Prop :=
  ∀ s t : State, step s = .next t → t.cfg = s.cfg

/-! ### Which operation writes what -/

/-- 10_state.md section 10: what each operation leaves as it was. (That a wire command puts its frame into
`FB` is log 9.) -/
def Obligations.OperationsWriteOnlyTheirState : Prop :=
  ∀ (i : Instr) (s t : State), exec i s = .next t →
    t.cfg = s.cfg ∧ t.rd = s.rd ∧ t.inputs = s.inputs ∧ t.draws = s.draws ∧
    (i.mayWriteCrc = false → t.crc = s.crc) ∧
    (i.mayWritePb = false → t.pb = s.pb) ∧
    (i.mayWriteFb = false → t.fb = s.fb) ∧
    (i.decodesFrame = false → t.frame = s.frame) ∧
    ((∀ d, i ≠ .sdParse d) → t.snap = s.snap) ∧
    (∀ d, i = .nop d → t.err = s.err)

/-- 10_state.md R19: `ERR` takes the code of the response of every operation but `NOP`. -/
def Obligations.ErrHoldsTheResponse : Prop :=
  ∀ (i : Instr) (s t : State), exec i s = .next t →
    ∃ c, t.rsp = some c ∧ ((∀ d, i ≠ .nop d) → t.err = c) ∧
      (∀ d, i = .nop d → c = .ok ∧ t.err = s.err)

/-- 10_state.md R20: `FR_VALID` and `FR_EXCESS` are written by `FC.DEC` only (a wire command ends in
one: log 9), to 1 and the excess test on success, both to 0 on failure. -/
def Obligations.FrameFlagsAreWrittenByDecoding : Prop :=
  (∀ (i : Instr) (s t : State), exec i s = .next t → i.decodesFrame = false →
    t.frValid = s.frValid ∧ t.frExcess = s.frExcess) ∧
  ∀ (d : Byte) (s t : State), exec (.fcDec d) s = .next t →
    (t.rsp = some .ok → t.frValid = true ∧
      ∃ f, t.frame = some f ∧ t.frExcess = decide (f.len.toNat + 4 < s.fb.length)) ∧
    (t.rsp ≠ some .ok → t.frValid = false ∧ t.frExcess = false)

/-- 42_state_decoder.md R145, 10_state.md R22: the snapshot is replaced as a whole by a successful
`SD.PARSE`, cleared by reset, and otherwise stays exactly as it was. -/
def Obligations.SnapshotChangesOnlyAsAWhole : Prop :=
  ∀ s t : State, step s = .next t →
    (∀ rest, s.inputs = .reset :: rest → t.snap = none ∧ t.snapValid = false) ∧
    (∀ (w : Request) (rest : List HostInput) (raw : Vector Byte 112),
      s.inputs = .present (.request w) :: rest → reqOp w = 0x9 → raw.toList = s.pb →
      t.snap = some (parse s.cfg.layout raw) ∧ t.snapValid = true) ∧
    ((∀ rest, s.inputs ≠ .reset :: rest) →
      (∀ (w : Request) (rest : List HostInput),
        s.inputs = .present (.request w) :: rest → reqOp w = 0x9 → s.pb.length ≠ 112) →
      t.snap = s.snap ∧ t.snapValid = s.snapValid)

/-- 60_exceptions.md R195: what each failure writes, in full, with the codes it writes to `ERR`; everything
else is unchanged. -/
def Obligations.FailuresWriteExactlyThis : Prop :=
  (Cause.tooShort.code = 1 ∧ Cause.checksumMismatch.code = 2 ∧ Cause.unknownCommand.code = 3 ∧
    Cause.invalidPayloadSize.code = 4 ∧ Cause.unexpectedLength.code = 5 ∧ Cause.bufFull.code = 6 ∧
    Cause.illegalOp.code = 7) ∧
  ∀ (d : Byte) (s : State),
    (s.cfg.maxPay < s.pb.length →
      exec (.fcEnc d) s = .next { s with
        fb := [], err := .invalidPayloadSize, rsp := some .invalidPayloadSize }) ∧
    (s.fbTooShort →
      exec (.fcDec d) s = .next { s with
        frame := none, pb := [], err := .tooShort, rsp := some .tooShort }) ∧
    (∀ l k r, l = (byteAt s.fb 1).toNat → k = crcAcc s.cfg (s.fb.take (l + 2)) →
      r = ckValue s.cfg (byteAt s.fb (l + 2)) (byteAt s.fb (l + 3)) → ¬ s.fbTooShort →
      (crcFin s.cfg k ≠ r →
        exec (.fcDec d) s = .next { s with
          crc := k, frame := none, pb := [], err := .checksumMismatch, rsp := some .checksumMismatch }) ∧
      (crcFin s.cfg k = r → byteAt s.fb 0 ≠ 0x52 → byteAt s.fb 0 ≠ 0x57 → byteAt s.fb 0 ≠ 0x58 →
        exec (.fcDec d) s = .next { s with
          crc := k, frame := none, pb := [], err := .unknownCommand, rsp := some .unknownCommand })) ∧
    (s.pb.length ≠ 112 →
      exec (.sdParse d) s = .next { s with err := .unexpectedLength, rsp := some .unexpectedLength }) ∧
    (s.pb.length = 256 →
      exec (.pbPush d) s = .next { s with err := .bufFull, rsp := some .bufFull }) ∧
    (s.fb.length = s.cfg.maxPay + 4 →
      exec (.fbPush d) s = .next { s with err := .bufFull, rsp := some .bufFull }) ∧
    (∀ i : Instr, i.isReserved = true →
      exec i s = .next { s with err := .illegalOp, rsp := some .illegalOp })

/-- 30_encoding.md R71, 43_buffer_ops.md R165: a request with a reserved code writes `ERR <- 7` only and
is answered 7. -/
def Obligations.ReservedCodesAnswerIllegalOp : Prop :=
  (∀ (i : Instr) (s : State), i.isReserved = true →
    exec i s = .next { s with err := .illegalOp, rsp := some .illegalOp }) ∧
  (∀ w : Request, 0xA ≤ (reqOp w).toNat → (decodeRequest w).isReserved = true) ∧
  Cause.illegalOp.code = 7

/-! ### The read port -/

/-- 20_memory.md R41: a read-port access returns the value there and changes no state of the block; what
every address holds is the same afterwards. (The count of free values is the model's own: log 7.) -/
def Obligations.ReadsHaveNoSideEffect : Prop :=
  ∀ (s : State) (ra : Addr) (rest : List HostInput), s.inputs = .read ra :: rest →
    ∃ t v n, step s = .next t ∧ t = { s with inputs := rest, rd := some v, draws := n } ∧
      (∀ u, s.valueAt ra = some u → v = u) ∧
      ∀ rb : Addr, t.valueAt rb = s.valueAt rb

/-- 20_memory.md R43: an unmapped address reads 0 with no other effect. -/
def Obligations.UnmappedAddressesReadZero : Prop :=
  ∀ (s : State) (ra : Addr) (rest : List HostInput),
    (0x100 + fbCap s.cfg ≤ ra.toNat ∧ ra.toNat < 0x300) ∨
    (0x370 ≤ ra.toNat ∧ ra.toNat < 0x400) ∨
    (0x40A ≤ ra.toNat ∧ ra.toNat < 0x410) ∨
    (0x413 ≤ ra.toNat ∧ ra.toNat < 0x418) ∨
    0x41C ≤ ra.toNat →
    s.inputs = .read ra :: rest →
    step s = .next { s with inputs := rest, rd := some 0 }

/-- 20_memory.md R42: the read map, every row, and that a location without a value shows something of
the width its row gives (a free value, log 7: the statement holds for every one). -/
def Obligations.ReadMapIsAsTabulated : Prop :=
  ∀ s : State, s.BuffersFit →
    (∀ a, a < 256 → s.valueAt (BitVec.ofNat 12 a) = s.pb[a]?.map (·.setWidth 32)) ∧
    (∀ a, a < fbCap s.cfg → s.valueAt (BitVec.ofNat 12 (0x100 + a)) = s.fb[a]?.map (·.setWidth 32)) ∧
    (∀ k : Fin 112, s.valueAt (BitVec.ofNat 12 (0x300 + k.val)) =
      s.snap.map fun n => (n.raw.get k).setWidth 32) ∧
    s.valueAt 0x400 = some (s.crc.setWidth 32) ∧
    s.valueAt 0x401 = some ((crcFin s.cfg s.crc).setWidth 32) ∧
    s.valueAt 0x402 = some (BitVec.ofNat 32 s.pb.length) ∧
    s.valueAt 0x403 = some (BitVec.ofNat 32 s.fb.length) ∧
    s.valueAt 0x404 = some (s.status.setWidth 32) ∧
    s.valueAt 0x405 = (s.frame.map fun f => f.cmd.setWidth 32) ∧
    s.valueAt 0x406 = (s.frame.map fun f => f.len.setWidth 32) ∧
    s.valueAt 0x407 = (s.frame.map fun f => f.cksum.setWidth 32) ∧
    s.valueAt 0x408 = (s.snap.map fun n => n.flags.setWidth 32) ∧
    s.valueAt 0x409 = (s.snap.map fun n => n.lineModes.setWidth 32) ∧
    (∀ i : Fin 3, s.valueAt (BitVec.ofNat 12 (0x410 + i.val)) =
      s.snap.map fun n => (n.sensors.get i).word.setWidth 32) ∧
    (∀ j : Fin 4, s.valueAt (BitVec.ofNat 12 (0x418 + j.val)) =
      s.snap.map fun n => (n.lines.get j).value) ∧
    (∀ (ra : Addr) (rest : List HostInput), s.inputs = .read ra :: rest → s.valueAt ra = none →
      ∃ t v, step s = .next t ∧ t.rd = some v ∧ ∀ w : Nat,
        ((ra.toNat < 0x100 + fbCap s.cfg ∨ (0x300 ≤ ra.toNat ∧ ra.toNat < 0x370) ∨ ra = 0x405 ∨
          ra = 0x406) ∧ w = 8) ∨
        ((ra = 0x407 ∨ (0x410 ≤ ra.toNat ∧ ra.toNat < 0x413)) ∧ w = 16) ∨
        (ra = 0x408 ∧ w = 7) ∨ (ra = 0x409 ∧ w = 4) ∨
        (0x418 ≤ ra.toNat ∧ ra.toNat < 0x41C ∧ w = 32) →
        v.toNat < 2 ^ w)

/-- 10_state.md R29: exactly these locations have no value. Reading one shows the next free value, so
that two reads need not agree, cut to the width 20_memory.md R42 gives the location (the free value and
its count are the model's own: log 7). -/
def Obligations.ValuelessLocationsReadFreely : Prop :=
  ∀ (s : State) (ra : Addr),
    (s.valueAt ra = none ↔
      (ra.toNat < 0x100 ∧ s.pb.length ≤ ra.toNat) ∨
      (0x100 ≤ ra.toNat ∧ ra.toNat < 0x100 + fbCap s.cfg ∧ s.fb.length ≤ ra.toNat - 0x100) ∨
      (0x405 ≤ ra.toNat ∧ ra.toNat < 0x408 ∧ s.frValid = false) ∨
      (((0x300 ≤ ra.toNat ∧ ra.toNat < 0x370) ∨ (0x408 ≤ ra.toNat ∧ ra.toNat < 0x40A) ∨
        (0x410 ≤ ra.toNat ∧ ra.toNat < 0x413) ∨ (0x418 ≤ ra.toNat ∧ ra.toNat < 0x41C)) ∧
        s.snapValid = false)) ∧
    (s.valueAt ra = none → ∀ (rest : List HostInput) (w : Nat), s.inputs = .read ra :: rest →
      ((ra.toNat < 0x100 + fbCap s.cfg ∨ (0x300 ≤ ra.toNat ∧ ra.toNat < 0x370) ∨ ra = 0x405 ∨
        ra = 0x406) ∧ w = 8) ∨
      ((ra = 0x407 ∨ (0x410 ≤ ra.toNat ∧ ra.toNat < 0x413)) ∧ w = 16) ∨
      (ra = 0x408 ∧ w = 7) ∨ (ra = 0x409 ∧ w = 4) ∨
      (0x418 ≤ ra.toNat ∧ ra.toNat < 0x41C ∧ w = 32) →
      step s = .next { s with
        inputs := rest
        rd := some (((Config.freeRead s.draws).setWidth w).setWidth 32)
        draws := s.draws + 1 })

/-- 10_state.md R18: the bits of `STATUS`; 60_exceptions.md R180: the numbers of the causes in `ERR`. -/
def Obligations.StatusBits : Prop :=
  (Cause.ok.code = 0 ∧ Cause.tooShort.code = 1 ∧ Cause.checksumMismatch.code = 2 ∧
    Cause.unknownCommand.code = 3 ∧ Cause.invalidPayloadSize.code = 4 ∧ Cause.unexpectedLength.code = 5 ∧
    Cause.bufFull.code = 6 ∧ Cause.illegalOp.code = 7) ∧
  ∀ s : State, ∃ w : Word, s.valueAt 0x404 = some w ∧
    w.extractLsb' 0 4 = s.err.code ∧
    w.getLsbD 4 = s.frame.isSome ∧
    (w.getLsbD 5 = true ↔ ∃ f, s.frame = some f ∧ f.excess = true) ∧
    w.getLsbD 6 = s.snap.isSome ∧
    (w.getLsbD 7 = true ↔ ∃ n, s.snap = some n ∧ ∃ i : Fin 3, (n.sensors.get i).boor = true) ∧
    ∀ k, 8 ≤ k → w.getLsbD k = false

/-- 10_state.md R25, R27: the bits of `SNAP_FLAGS` and `LINE_MODE`. -/
def Obligations.SnapshotFlagBits : Prop :=
  ∀ (s : State) (n : Snapshot), s.snap = some n →
    (∃ w : Word, s.valueAt 0x408 = some w ∧
      w.getLsbD 0 = n.valveOpen ∧ w.getLsbD 1 = n.dryMode ∧ w.getLsbD 2 = n.autoClose ∧
      w.getLsbD 3 = false ∧ (∀ i : Fin 3, w.getLsbD (4 + i.val) = (n.sensors.get i).boor) ∧
      ∀ k, 7 ≤ k → w.getLsbD k = false) ∧
    (∃ w : Word, s.valueAt 0x409 = some w ∧
      (∀ j : Fin 4, w.getLsbD j.val = true ↔ (n.lines.get j).mode = .counter) ∧
      ∀ k, 4 ≤ k → w.getLsbD k = false)

/-- 10_state.md R26: a sensor word holds the state and signal codes, zero in 7:4 and above 15, a battery
percentage of at most 100, and never the signal code 0b01. The last two rest on the invariant. -/
def Obligations.SensorWordBits : Prop :=
  ∀ (s : State) (n : Snapshot) (i : Fin 3), s.Inv → s.snap = some n →
    ∃ w : Word, s.valueAt (BitVec.ofNat 12 (0x410 + i.val)) = some w ∧
      w.extractLsb' 0 2 = (n.sensors.get i).state.code ∧
      w.extractLsb' 2 2 = (n.sensors.get i).signal.code ∧ w.extractLsb' 2 2 ≠ 0b01 ∧
      w.extractLsb' 4 4 = 0 ∧
      w.extractLsb' 8 8 = (n.sensors.get i).batt ∧ (w.extractLsb' 8 8).toNat ≤ 100 ∧
      w.extractLsb' 16 16 = 0

/-! ### Reset -/

/-- 70_reset_and_hazards.md R200: what the reset input leaves. -/
def Obligations.ResetInputResets : Prop :=
  ∀ (s : State) (rest : List HostInput), s.inputs = .reset :: rest →
    ∃ t, step s = .next t ∧ t.crc = s.cfg.crcInit ∧ t.plen = 0 ∧ t.flen = 0 ∧ t.status = 0 ∧
      t.cfg = s.cfg ∧
      (∀ ra : Addr, ra.toNat < 0x100 + fbCap s.cfg → t.valueAt ra = none) ∧
      (∀ ra : Addr, 0x300 ≤ ra.toNat → ra.toNat < 0x370 → t.valueAt ra = none) ∧
      (∀ ra : Addr, 0x405 ≤ ra.toNat → ra.toNat < 0x40A → t.valueAt ra = none) ∧
      (∀ ra : Addr, 0x410 ≤ ra.toNat → ra.toNat < 0x413 → t.valueAt ra = none) ∧
      (∀ ra : Addr, 0x418 ≤ ra.toNat → ra.toNat < 0x41C → t.valueAt ra = none)

/-- 70_reset_and_hazards.md R202: a reset after an operation leaves what a reset before it leaves. -/
def Obligations.ResetVoidsTheOperationBeforeIt : Prop :=
  ∀ (i : Instr) (s t : State), exec i s = .next t → t.resetInput = s.resetInput

/-- 70_reset_and_hazards.md R203: every operation has its meaning from the first request after reset. -/
def Obligations.FirstOperationsAfterReset : Prop :=
  ∀ (c : Cfg) (d : Byte),
    exec (.crcByte d) (State.resetOf c) = .next { State.resetOf c with
      crc := crcStep c c.crcInit d, rsp := some .ok } ∧
    exec (.pbPush d) (State.resetOf c) = .next { State.resetOf c with pb := [d], rsp := some .ok } ∧
    exec (.fbPush d) (State.resetOf c) = .next { State.resetOf c with fb := [d], rsp := some .ok } ∧
    (∃ f t, frameEncode c d [] = some f ∧ exec (.fcEnc d) (State.resetOf c) = .next t ∧ t.fb = f ∧
      t.rsp = some .ok) ∧
    (∃ t, exec (.fcDec d) (State.resetOf c) = .next t ∧ t.rsp = some .tooShort) ∧
    (∃ t, exec (.sdParse d) (State.resetOf c) = .next t ∧ t.rsp = some .unexpectedLength)

/-! ### Checksum Engine -/

/-- 40_checksum_engine.md R86, R87: `CRC.INIT` and `CRC.BYTE`, their codes, and that they write nothing
else. -/
def Obligations.ChecksumOperationsWriteCrc : Prop :=
  (∀ w : Request, (reqOp w = 0x1 → decode (.request w) = .ok (.crcInit (reqData w))) ∧
    (reqOp w = 0x2 → decode (.request w) = .ok (.crcByte (reqData w)))) ∧
  Cause.ok.code = 0 ∧
  ∀ (d : Byte) (s : State),
    exec (.crcInit d) s = .next { s with crc := s.cfg.crcInit, err := .ok, rsp := some .ok } ∧
    exec (.crcByte d) s = .next { s with crc := crcStep s.cfg s.crc d, err := .ok, rsp := some .ok }

/-- 40_checksum_engine.md R82, whose algorithm the spec marks "[from general knowledge, not in source]"
(log 15): `crc_step` puts the byte, its bits reversed when asked, into the top half
and shifts eight times, XORing 0x1021 whenever a 1 leaves the top. -/
def Obligations.CrcStepShiftsEightTimes : Prop :=
  ∀ (c : Cfg) (r : Half) (d : Byte), ∃ x : Nat → Half, crcStep c r d = x 8 ∧
    (∀ k, k < 16 → (x 0).getLsbD k = xor (r.getLsbD k)
      (decide (8 ≤ k) && d.getLsbD (if c.crcRefin = true then 15 - k else k - 8))) ∧
    ∀ n, n < 8 →
      x (n + 1) = if (x n).getLsbD 15 = true then (x n <<< 1) ^^^ 0x1021 else x n <<< 1

/-- 40_checksum_engine.md section 4 (marked "[from general knowledge, not in source]": log 15): the table
form of `crc_step`. -/
def Obligations.CrcStepHasTableForm : Prop :=
  ∀ (c : Cfg) (r : Half) (d : Byte), c.crcRefin = false →
    crcStep c r d = (r <<< 8) ^^^ crcStep c 0 (r.extractLsb' 8 8 ^^^ d)

/-- 40_checksum_engine.md section 4 (marked "[from general knowledge, not in source]": log 15): the
right-shifting form of `crc_step`. -/
def Obligations.CrcStepHasReflectedForm : Prop :=
  ∀ (c : Cfg) (r : Half) (d : Byte), c.crcRefin = true →
    (crcStep c r d).reverse =
      Nat.repeat (fun x : Half => if x.getLsbD 0 = true then (x >>> 1) ^^^ 0x8408 else x >>> 1) 8
        (r.reverse ^^^ d.setWidth 16)

/-- 40_checksum_engine.md R83: the accumulator takes the bytes in order, starting from `CRC_INIT`. -/
def Obligations.CrcAccumulatesInOrder : Prop :=
  ∀ (c : Cfg) (s : List Byte) (d : Byte),
    crcAcc c [] = c.crcInit ∧ crcAcc c (s ++ [d]) = crcStep c (crcAcc c s) d

/-- 40_checksum_engine.md R84, whose reversal and XOR the spec marks "[from general knowledge, not in
source]" (log 15): `crc_fin` reverses when asked, XORs, is a bijection for every choice of the
parameters, and is the identity under the `CFG0` ones. -/
def Obligations.CrcFinIsBijective : Prop :=
  ∀ c : Cfg,
    (∀ (r : Half) (k : Nat), k < 16 →
      (crcFin c r).getLsbD k =
        xor (r.getLsbD (if c.crcRefout = true then 15 - k else k)) (c.crcXorout.getLsbD k)) ∧
    Function.Bijective (crcFin c) ∧
    (c.crcRefout = false → c.crcXorout = 0 → ∀ r, crcFin c r = r)

/-- 40_checksum_engine.md R91: streaming equals the function, whatever operations that do not write
`CRC` stand between. -/
def Obligations.StreamingEqualsTheFunction : Prop :=
  ∀ (d : Byte) (s t u : State) (bs : List Byte), exec (.crcInit d) s = .next t → Streams t bs u →
    u.crc = crcAcc s.cfg bs ∧ u.crcOut = crc16ccitt s.cfg bs

/-- 40_checksum_engine.md R90: flipping one bit changes the checksum, for every choice of the
parameters. -/
def Obligations.SingleBitFlipChangesChecksum : Prop :=
  ∀ (c : Cfg) (s : List Byte) (i : Nat) (k : Fin 8), i < s.length →
    crc16ccitt c (flipBit s i k) ≠ crc16ccitt c s

/-! ### Frame Codec -/

/-- 41_frame_codec.md R101: the checksum's two wire bytes. -/
def Obligations.ChecksumWireBytes : Prop :=
  ∀ (c : Cfg) (k : Half) (b0 b1 : Byte),
    ckValue c (ckBytes c k).1 (ckBytes c k).2 = k ∧
    (c.cksumOrder = .loFirst →
      (ckBytes c k).1.toNat = k.toNat % 256 ∧ (ckBytes c k).2.toNat = k.toNat / 256 ∧
      (ckValue c b0 b1).toNat = 256 * b1.toNat + b0.toNat) ∧
    (c.cksumOrder = .hiFirst →
      (ckBytes c k).1.toNat = k.toNat / 256 ∧ (ckBytes c k).2.toNat = k.toNat % 256 ∧
      (ckValue c b0 b1).toNat = 256 * b0.toNat + b1.toNat)

/-- 41_frame_codec.md R102: what `encode` builds, and when it fails. -/
def Obligations.EncodeBuildsTheFrame : Prop :=
  ∀ (c : Cfg) (cmd : Byte) (p : List Byte),
    (c.maxPay < p.length → frameEncode c cmd p = none) ∧
    (p.length ≤ c.maxPay → ∃ f, frameEncode c cmd p = some f ∧ f.length = p.length + 4 ∧
      byteAt f 0 = cmd ∧ (byteAt f 1).toNat = p.length ∧ (f.drop 2).take p.length = p ∧
      ckValue c (byteAt f (p.length + 2)) (byteAt f (p.length + 3)) =
        crc16ccitt c (f.take (p.length + 2)))

/-- 41_frame_codec.md R103: `FC.ENC` leaves the encoded frame in `FB` and its accumulator in `CRC` and
writes nothing else; it fails exactly when `PLEN > MAXPAY`, and then only empties `FB`. -/
def Obligations.EncodeOperationBuildsTheFrame : Prop :=
  (∀ w : Request, reqOp w = 0x7 → decode (.request w) = .ok (.fcEnc (reqData w))) ∧
  Cause.ok.code = 0 ∧ Cause.invalidPayloadSize.code = 4 ∧
  ∀ (c : Byte) (s : State),
    (s.pb.length ≤ s.cfg.maxPay → ∃ f, frameEncode s.cfg c s.pb = some f ∧
      exec (.fcEnc c) s = .next { s with
        fb := f, crc := crcAcc s.cfg (f.take (s.pb.length + 2)), err := .ok, rsp := some .ok }) ∧
    (s.cfg.maxPay < s.pb.length →
      exec (.fcEnc c) s = .next { s with
        fb := [], err := .invalidPayloadSize, rsp := some .invalidPayloadSize })

/-- 41_frame_codec.md R107: `FC.DEC` does to the state what `decode` of `FB` says; and, written out, what
it does when every check passes (what it does when one fails is written out in FailuresWriteExactlyThis). -/
def Obligations.DecodeOperationAgreesWithDecode : Prop :=
  (∀ w : Request, reqOp w = 0x8 → decode (.request w) = .ok (.fcDec (reqData w))) ∧
  (Cause.ok.code = 0 ∧ Cause.tooShort.code = 1 ∧ Cause.checksumMismatch.code = 2 ∧
    Cause.unknownCommand.code = 3) ∧
  (∀ (d : Byte) (s : State) (l : Nat) (a r : Half), l = (byteAt s.fb 1).toNat →
    a = crcAcc s.cfg (s.fb.take (l + 2)) →
    r = ckValue s.cfg (byteAt s.fb (l + 2)) (byteAt s.fb (l + 3)) →
    4 ≤ s.fb.length → l + 4 ≤ s.fb.length → crcFin s.cfg a = r →
    byteAt s.fb 0 = 0x52 ∨ byteAt s.fb 0 = 0x57 ∨ byteAt s.fb 0 = 0x58 →
    exec (.fcDec d) s = .next { s with
      crc := a
      frame := some {
        cmd := byteAt s.fb 0, len := byteAt s.fb 1, cksum := r
        excess := decide (l + 4 < s.fb.length) }
      pb := (s.fb.drop 2).take l, err := .ok, rsp := some .ok }) ∧
  ∀ (d : Byte) (s : State),
    (∀ f, frameDecode s.cfg s.fb = .ok f →
      exec (.fcDec d) s = .next { s with
        crc := crcAcc s.cfg (s.fb.take (f.length.toNat + 2))
        frame := some { cmd := f.command, len := f.length, cksum := f.checksum, excess := f.excess }
        pb := f.payload, err := .ok, rsp := some .ok }) ∧
    (∀ c, frameDecode s.cfg s.fb = .error c →
      exec (.fcDec d) s = .next { s with
        crc := if c = .tooShort then s.crc else crcAcc s.cfg (s.fb.take ((byteAt s.fb 1).toNat + 2))
        frame := none, pb := [], err := c, rsp := some c })

/-- 41_frame_codec.md R106, R108, R110: when `decode` reports what, in which order, and what it returns
when it succeeds. -/
def Obligations.DecodeChecksInOrder : Prop :=
  ∀ (c : Cfg) (s : List Byte) (l : Nat) (k r : Half), l = (byteAt s 1).toNat →
    k = crc16ccitt c (s.take (l + 2)) → r = ckValue c (byteAt s (l + 2)) (byteAt s (l + 3)) →
    (frameDecode c s = .error .tooShort ↔ s.length < 4 ∨ s.length < l + 4) ∧
    (frameDecode c s = .error .checksumMismatch ↔ 4 ≤ s.length ∧ l + 4 ≤ s.length ∧ k ≠ r) ∧
    (frameDecode c s = .error .unknownCommand ↔ 4 ≤ s.length ∧ l + 4 ≤ s.length ∧ k = r ∧
      byteAt s 0 ≠ 0x52 ∧ byteAt s 0 ≠ 0x57 ∧ byteAt s 0 ≠ 0x58) ∧
    (∀ e, frameDecode c s = .error e →
      e = .tooShort ∨ e = .checksumMismatch ∨ e = .unknownCommand) ∧
    ∀ f, frameDecode c s = .ok f ↔ 4 ≤ s.length ∧ l + 4 ≤ s.length ∧ k = r ∧
      (byteAt s 0 = 0x52 ∨ byteAt s 0 = 0x57 ∨ byteAt s 0 = 0x58) ∧
      f = { command := byteAt s 0, length := byteAt s 1, payload := (s.drop 2).take l
            checksum := r, excess := decide (l + 4 < s.length) }

/-- 41_frame_codec.md R111: `decode` examines the bytes of the frame only; bytes after it show in
`excess` and nowhere else, and `FC.DEC` reports them by `FR_EXCESS` and leaves them in `FB`. -/
def Obligations.BytesAfterTheFrameAreIgnored : Prop :=
  (∀ (c : Cfg) (s : List Byte) (l : Nat), l = (byteAt s 1).toNat → 4 ≤ s.length → l + 4 ≤ s.length →
    frameDecode c s =
      (frameDecode c (s.take (l + 4))).map fun f => { f with excess := decide (l + 4 < s.length) }) ∧
  ∀ (d : Byte) (s t : State), exec (.fcDec d) s = .next t →
    t.fb = s.fb ∧
    (t.rsp = some .ok → (t.frExcess = true ↔ (byteAt s.fb 1).toNat + 4 < s.fb.length))

/-- 41_frame_codec.md R112: round trip, as functions and as operations. -/
def Obligations.FrameRoundTrip : Prop :=
  (∀ (c : Cfg) (cmd : Byte) (p : List Byte), p.length ≤ c.maxPay → ∃ f, frameEncode c cmd p = some f ∧
    (supportedCommand cmd = true →
      frameDecode c f = .ok {
        command := cmd, length := BitVec.ofNat 8 p.length, payload := p
        checksum := crc16ccitt c ([cmd, BitVec.ofNat 8 p.length] ++ p), excess := false }) ∧
    (supportedCommand cmd = false → frameDecode c f = .error .unknownCommand)) ∧
  ∀ (s : State) (cmd d : Byte) (p : List Byte), supportedCommand cmd = true →
    p.length ≤ s.cfg.maxPay →
    ∃ t u v, execAll (pbLoad p) s = .next t ∧ t.rsp = some .ok ∧
      exec (.fcEnc cmd) t = .next u ∧ u.rsp = some .ok ∧
      exec (.fcDec d) u = .next v ∧ v.rsp = some .ok ∧
      v.pb = p ∧ v.frValid = true ∧ ∃ f, v.frame = some f ∧ f.cmd = cmd

/-- 41_frame_codec.md R113, R110: a frame with one flipped bit never decodes to the payload it was built
from. It is refused, except that a length byte lowered can by chance leave a shorter frame with bytes
after it (refused, if its command is not one of the three). -/
def Obligations.FlippedFrameNeverReadsAsTheOriginal : Prop :=
  ∀ (c : Cfg) (cmd : Byte) (p f : List Byte) (i : Nat) (k : Fin 8), frameEncode c cmd p = some f →
    i < f.length →
    (∀ g, frameDecode c (flipBit f i k) = .ok g → g.payload ≠ p) ∧
    (i ≠ 1 → frameDecode c (flipBit f i k) = .error .checksumMismatch) ∧
    (i = 1 → p.length.testBit k.val = false → frameDecode c (flipBit f i k) = .error .tooShort) ∧
    (i = 1 → p.length.testBit k.val = true →
      frameDecode c (flipBit f i k) = .error .checksumMismatch ∨
      (supportedCommand cmd = false ∧ frameDecode c (flipBit f i k) = .error .unknownCommand) ∨
      (supportedCommand cmd = true ∧ ∃ g, frameDecode c (flipBit f i k) = .ok g ∧
        g.payload.length < p.length ∧ g.excess = true))

/-- 41_frame_codec.md R114: `FC.DEC` never answers `InvalidPayloadSize`; a length byte above `MAXPAY` is
`TooShort`. -/
def Obligations.LengthAboveMaxPayIsTooShort : Prop :=
  ∀ (d : Byte) (s t : State), s.BuffersFit → exec (.fcDec d) s = .next t →
    t.rsp ≠ some .invalidPayloadSize ∧
    (s.cfg.maxPay < (byteAt s.fb 1).toNat → t.rsp = some .tooShort)

/-- 41_frame_codec.md R115: what holds after a successful `FC.ENC` and after a successful `FC.DEC`. -/
def Obligations.CodecPostconditions : Prop :=
  (∀ (c : Byte) (s t : State), exec (.fcEnc c) s = .next t → t.rsp = some .ok →
    t.fb.length = t.pb.length + 4 ∧ 4 ≤ t.fb.length ∧ t.fb.length ≤ fbCap t.cfg ∧
    (byteAt t.fb 1).toNat = t.pb.length ∧
    t.crcOut = ckValue t.cfg (byteAt t.fb (t.fb.length - 2)) (byteAt t.fb (t.fb.length - 1))) ∧
  ∀ (d : Byte) (s t : State), exec (.fcDec d) s = .next t → t.rsp = some .ok →
    ∃ f, t.frame = some f ∧ t.pb.length = f.len.toNat ∧ f.len = byteAt t.fb 1 ∧
      (∀ i, i < t.pb.length → byteAt t.pb i = byteAt t.fb (2 + i)) ∧
      f.cmd = byteAt t.fb 0 ∧ f.cksum = t.crcOut

/-! ### Wire commands (the step of a wire-command row is the model's own: log 9) -/

/-- A received frame with a correct checksum that fits is accepted: the record and the payload. That the
whole delivery is one step is the model's choice (log 9). -/
def Obligations.WireCommandIsAccepted : Prop :=
  ∀ (p : List Byte) (b0 b1 : Byte) (s : State), p.length ≤ s.cfg.maxPay →
    ∀ cmd i, (cmd = 0x52 ∧ i = Instr.cmdQuery p b0 b1) ∨ (cmd = 0x57 ∧ i = Instr.cmdControl p b0 b1) ∨
      (cmd = 0x58 ∧ i = Instr.cmdCounter p b0 b1) →
    ckValue s.cfg b0 b1 = crc16ccitt s.cfg ([cmd, BitVec.ofNat 8 p.length] ++ p) →
    exec i s = .next { s with
      fb := [cmd, BitVec.ofNat 8 p.length] ++ p ++ [b0, b1]
      crc := crcAcc s.cfg ([cmd, BitVec.ofNat 8 p.length] ++ p)
      frame := some {
        cmd := cmd, len := BitVec.ofNat 8 p.length, cksum := ckValue s.cfg b0 b1, excess := false }
      pb := p, err := .ok, rsp := some .ok }

/-- A received frame with another checksum is refused as `ChecksumMismatch`, one too long for `FB` as
`TooShort`. That the whole delivery is one step is the model's choice (log 9). -/
def Obligations.WireCommandIsRefused : Prop :=
  ∀ (p : List Byte) (b0 b1 : Byte) (s : State) (cmd : Byte) (i : Instr),
    (cmd = 0x52 ∧ i = Instr.cmdQuery p b0 b1) ∨ (cmd = 0x57 ∧ i = Instr.cmdControl p b0 b1) ∨
      (cmd = 0x58 ∧ i = Instr.cmdCounter p b0 b1) →
    (p.length ≤ s.cfg.maxPay →
      ckValue s.cfg b0 b1 ≠ crc16ccitt s.cfg ([cmd, BitVec.ofNat 8 p.length] ++ p) →
      ∃ t, exec i s = .next t ∧ t.rsp = some .checksumMismatch ∧ t.frame = none ∧ t.pb = []) ∧
    (s.cfg.maxPay < p.length → p.length ≤ 255 →
      ∃ t, exec i s = .next t ∧ t.rsp = some .tooShort ∧ t.frame = none ∧ t.pb = [] ∧ t.crc = s.crc)

/-- The model's one-step delivery of received bytes (its choice: logs 9, 10) is exactly the operation
sequence it abbreviates: `FB.LOAD` of the bytes (30_encoding.md R74), then `FC.DEC`. -/
def Obligations.DeliveryIsLoadThenDecode : Prop :=
  (∀ (s : State) (bs : List Byte) (rest : List HostInput) (d : Byte),
    s.inputs = .present (.frame bs) :: rest →
    step s = execAll (fbLoad bs ++ [.fcDec d]) { s with inputs := rest }) ∧
  ∀ (i : Instr) (bs : List Byte) (s : State) (d : Byte), encode i = .frame bs →
    exec i s = execAll (fbLoad bs ++ [.fcDec d]) s

/-! ### State Decoder -/

/-- 42_state_decoder.md R132: the magnitude of the signed byte, clamped to 100 and flagged above. -/
def Obligations.BatteryMagnitudeIsClamped : Prop :=
  ∀ (b : Byte) (m : Nat), m = (if b.getLsbD 7 = true then 256 - b.toNat else b.toNat) →
    (m : Int) = |b.toInt| ∧ (batt b).1.toNat = min m 100 ∧ ((batt b).2 = true ↔ 100 < m)

/-- 42_state_decoder.md R134, R135: the codes of sensor states and signal levels, every other byte
Unknown. -/
def Obligations.SensorAndSignalCodes : Prop :=
  (sstate 0x00).code = 0b00 ∧ (sstate 0x02).code = 0b10 ∧ (sstate 0x03).code = 0b11 ∧
  (∀ b, b ≠ 0x00 → b ≠ 0x02 → b ≠ 0x03 → sstate b = .unknown ∧ (sstate b).code = 0b01) ∧
  (ssignal 0x02).code = 0b10 ∧ (ssignal 0x03).code = 0b11 ∧
  (∀ b, b ≠ 0x02 → b ≠ 0x03 → ssignal b = .unknown ∧ (ssignal b).code = 0b00)

/-- 42_state_decoder.md R139: a counter value is its four bytes, least significant first under LE, most
significant first under BE. -/
def Obligations.CounterByteOrder : Prop :=
  ∀ (raw : Vector Byte 112) (off : Fin 109) (b : Fin 4 → Nat),
    (∀ (k : Fin 4) (h : off.val + k.val < 112), b k = (raw.get ⟨off.val + k.val, h⟩).toNat) →
    (u32 .le raw off).toNat = b 0 + 256 * b 1 + 65536 * b 2 + 16777216 * b 3 ∧
    (u32 .be raw off).toNat = b 3 + 256 * b 2 + 65536 * b 1 + 16777216 * b 0

/-- 42_state_decoder.md R137: a flag is whether a masked bit is set, turned round by `inv`. -/
def Obligations.FlagReadsItsDescriptor : Prop :=
  ∀ (raw : Vector Byte 112) (d : FlagDesc),
    (d.inv = false → (flag raw d = true ↔
      ∃ k, k < 8 ∧ (raw.get d.off).getLsbD k = true ∧ d.mask.getLsbD k = true)) ∧
    (d.inv = true → (flag raw d = false ↔
      ∃ k, k < 8 ∧ (raw.get d.off).getLsbD k = true ∧ d.mask.getLsbD k = true))

/-- 42_state_decoder.md R142 with R130, R131, R136, R138, R140: `SD.PARSE` on 112 bytes writes every field
of the snapshot, `ERR` and nothing else; on any other length it writes `ERR` only. -/
def Obligations.ParseWritesTheWholeSnapshot : Prop :=
  (∀ w : Request, reqOp w = 0x9 → decode (.request w) = .ok (.sdParse (reqData w))) ∧
  Cause.ok.code = 0 ∧ Cause.unexpectedLength.code = 5 ∧
  ∀ (d : Byte) (s : State),
    (s.pb.length = 112 → ∃ n : Snapshot, n.raw.toList = s.pb ∧
      exec (.sdParse d) s = .next { s with snap := some n, err := .ok, rsp := some .ok } ∧
      n.valveOpen = flag n.raw s.cfg.layout.flagValve ∧
      n.dryMode = flag n.raw s.cfg.layout.flagDry ∧
      n.autoClose = flag n.raw s.cfg.layout.flagAutoClose ∧
      (∀ i : Fin 3,
        (n.sensors.get i).state = sstate (n.raw.get (s.cfg.layout.offState.get i)) ∧
        (n.sensors.get i).signal = ssignal (n.raw.get (s.cfg.layout.offSignal.get i)) ∧
        ((n.sensors.get i).batt, (n.sensors.get i).boor) = batt (byteAt s.pb (53 + 4 * i.val))) ∧
      (∀ j : Fin 4,
        ((n.lines.get j).mode = .counter ↔ flag n.raw (s.cfg.layout.lineMode.get j) = true) ∧
        (n.lines.get j).value =
          u32 s.cfg.layout.cntOrder n.raw (s.cfg.layout.offValue.get j))) ∧
    (s.pb.length ≠ 112 →
      exec (.sdParse d) s = .next { s with err := .unexpectedLength, rsp := some .unexpectedLength })

/-- 42_state_decoder.md R144: `RAW` receives the input bytes, and with the configuration determines every
field of the snapshot. -/
def Obligations.RawDeterminesTheSnapshot : Prop :=
  (∀ (d : Byte) (s t : State), s.pb.length = 112 → exec (.sdParse d) s = .next t →
    ∀ k, k < 112 →
      t.valueAt (BitVec.ofNat 12 (0x300 + k)) = some ((byteAt s.pb k).setWidth 32)) ∧
  ∀ (s t : State) (m n : Snapshot), s.Inv → t.Inv → s.cfg = t.cfg → s.snap = some m →
    t.snap = some n → m.raw = n.raw → m = n

/-! ### Buffers and housekeeping -/

/-- 43_buffer_ops.md R160: `NOP` answers OK and writes nothing: every address reads as before. It is the
only operation of which that is so in every case. -/
def Obligations.NopWritesNothing : Prop :=
  (∀ w : Request, reqOp w = 0x0 → decode (.request w) = .ok (.nop (reqData w))) ∧
  (∀ (d : Byte) (s : State), ∃ t, exec (.nop d) s = .next t ∧ t = { s with rsp := some .ok } ∧
    ∀ ra : Addr, t.valueAt ra = s.valueAt ra) ∧
  ∀ i : Instr, (∀ d, i ≠ .nop d) → ∃ s t : State, exec i s = .next t ∧ t.err ≠ s.err

/-- 43_buffer_ops.md R161, R163: the clears, and that no byte of the buffer has a value afterwards. -/
def Obligations.ClearsEmptyTheBuffer : Prop :=
  (∀ w : Request, (reqOp w = 0x3 → decode (.request w) = .ok (.pbClr (reqData w))) ∧
    (reqOp w = 0x5 → decode (.request w) = .ok (.fbClr (reqData w)))) ∧
  Cause.ok.code = 0 ∧
  ∀ (d : Byte) (s : State),
    (∃ t, exec (.pbClr d) s = .next t ∧ t = { s with pb := [], err := .ok, rsp := some .ok } ∧
      ∀ ra : Addr, ra.toNat < 0x100 → t.valueAt ra = none) ∧
    (∃ t, exec (.fbClr d) s = .next t ∧ t = { s with fb := [], err := .ok, rsp := some .ok } ∧
      ∀ ra : Addr, 0x100 ≤ ra.toNat → ra.toNat < 0x100 + fbCap s.cfg → t.valueAt ra = none)

/-- 43_buffer_ops.md R162, R164: a push with room appends one byte, at the fill count, and writes `ERR`
and nothing else; a push into a full buffer writes `ERR` only. -/
def Obligations.PushesAppendOneByte : Prop :=
  (∀ w : Request, (reqOp w = 0x4 → decode (.request w) = .ok (.pbPush (reqData w))) ∧
    (reqOp w = 0x6 → decode (.request w) = .ok (.fbPush (reqData w)))) ∧
  Cause.ok.code = 0 ∧ Cause.bufFull.code = 6 ∧
  ∀ (d : Byte) (s : State),
    (s.pb.length < 256 →
      exec (.pbPush d) s = .next { s with pb := s.pb ++ [d], err := .ok, rsp := some .ok }) ∧
    (s.pb.length = 256 →
      exec (.pbPush d) s = .next { s with err := .bufFull, rsp := some .bufFull }) ∧
    (s.fb.length < s.cfg.maxPay + 4 →
      exec (.fbPush d) s = .next { s with fb := s.fb ++ [d], err := .ok, rsp := some .ok }) ∧
    (s.fb.length = s.cfg.maxPay + 4 →
      exec (.fbPush d) s = .next { s with err := .bufFull, rsp := some .bufFull })

/-- The frame of the pushes, read through the read map: the byte stored stands at the fill count, and
every address but that one, the fill count's and `STATUS` reads as before. -/
def Obligations.PushesStoreAtTheFillCount : Prop :=
  ∀ (d : Byte) (s t : State), s.BuffersFit →
    (exec (.pbPush d) s = .next t → s.pb.length < 256 →
      t.valueAt (BitVec.ofNat 12 s.pb.length) = some (d.setWidth 32) ∧
      ∀ ra : Addr, ra.toNat ≠ s.pb.length → ra ≠ 0x402 → ra ≠ 0x404 →
        t.valueAt ra = s.valueAt ra) ∧
    (exec (.fbPush d) s = .next t → s.fb.length < fbCap s.cfg →
      t.valueAt (BitVec.ofNat 12 (0x100 + s.fb.length)) = some (d.setWidth 32) ∧
      ∀ ra : Addr, ra.toNat ≠ 0x100 + s.fb.length → ra ≠ 0x403 → ra ≠ 0x404 →
        t.valueAt ra = s.valueAt ra)

/-- The frame of the operations that store to no buffer, read through the read map: `CRC.INIT` and
`CRC.BYTE` show in `CRC`, `CRC_OUT` and `STATUS` only, the reserved codes in `STATUS` only. -/
def Obligations.RegisterOperationsStoreNothing : Prop :=
  ∀ (i : Instr) (s t : State) (ra : Addr), exec i s = .next t → ra ≠ 0x404 →
    (i.isReserved = true → t.valueAt ra = s.valueAt ra) ∧
    (∀ d, i = .crcInit d ∨ i = .crcByte d → ra ≠ 0x400 → ra ≠ 0x401 → t.valueAt ra = s.valueAt ra)

/-- The frame of the codec and the decoder, read through the read map: `FC.ENC` leaves every address of
`PB`, `RAW`, the frame registers and the snapshot; `FC.DEC` every address of `FB`, `RAW` and the
snapshot; `SD.PARSE` every address of `PB` and `FB`, the checksum, the fill counts and the frame
registers. -/
def Obligations.CodecAndDecoderFrames : Prop :=
  ∀ (d : Byte) (s t : State) (ra : Addr), s.BuffersFit → ra ≠ 0x404 →
    (exec (.fcEnc d) s = .next t →
      ¬ (0x100 ≤ ra.toNat ∧ ra.toNat < 0x100 + fbCap s.cfg) → ra ≠ 0x400 → ra ≠ 0x401 →
      ra ≠ 0x403 → t.valueAt ra = s.valueAt ra) ∧
    (exec (.fcDec d) s = .next t → 0x100 ≤ ra.toNat → ra ≠ 0x400 → ra ≠ 0x401 → ra ≠ 0x402 →
      ra ≠ 0x405 → ra ≠ 0x406 → ra ≠ 0x407 → t.valueAt ra = s.valueAt ra) ∧
    (exec (.sdParse d) s = .next t → ¬ (0x300 ≤ ra.toNat ∧ ra.toNat < 0x370) →
      ¬ (0x408 ≤ ra.toNat ∧ ra.toNat < 0x41C) → t.valueAt ra = s.valueAt ra)

/-- The model's own choice (log 14): a buffer that holds more than its capacity, as none does in a state
with fitting buffers, counts as full. -/
def Obligations.OverfullBuffersCountAsFull : Prop :=
  ∀ (d : Byte) (s : State),
    (256 < s.pb.length →
      exec (.pbPush d) s = .next { s with err := .bufFull, rsp := some .bufFull }) ∧
    (s.cfg.maxPay + 4 < s.fb.length →
      exec (.fbPush d) s = .next { s with err := .bufFull, rsp := some .bufFull })
end

