-- ==== Sys2Proof/Laws/Encoding.lean ====
section
/-! SUPPORT. A request word and its two fields determine each other (30_encoding.md R68). -/

namespace Sys2Proof

@[simp] theorem reqOp_mkRequest (op : BitVec 4) (d : Byte) : reqOp (mkRequest op d) = op :=
  BitVec.extractLsb'_append_eq_left

@[simp] theorem reqData_mkRequest (op : BitVec 4) (d : Byte) : reqData (mkRequest op d) = d :=
  BitVec.extractLsb'_append_eq_right

theorem mkRequest_fields (w : Request) : mkRequest (reqOp w) (reqData w) = w := by
  apply BitVec.eq_of_getLsbD_eq
  intro i hi
  simp only [mkRequest, reqOp, reqData, BitVec.getLsbD_append, BitVec.getLsbD_extractLsb']
  by_cases h : i < 8
  · simp [h]
  · have h1 : i - 8 < 4 := by omega
    have h2 : 8 + (i - 8) = i := by omega
    simp [h, h1, h2]

end Sys2Proof
end

