-- ==== Sys2Proof/Laws/State.lean ====
section
/-! SUPPORT. One lemma per field per named update of the state, true by rfl. -/

namespace Sys2Proof.Machine

@[simp] theorem State.setCrc_cfg (s : State) (v : Half) : (s.setCrc v).cfg = s.cfg := rfl
@[simp] theorem State.setCrc_crc (s : State) (v : Half) : (s.setCrc v).crc = v := rfl
@[simp] theorem State.setCrc_pb (s : State) (v : Half) : (s.setCrc v).pb = s.pb := rfl
@[simp] theorem State.setCrc_fb (s : State) (v : Half) : (s.setCrc v).fb = s.fb := rfl
@[simp] theorem State.setCrc_err (s : State) (v : Half) : (s.setCrc v).err = s.err := rfl
@[simp] theorem State.setCrc_frame (s : State) (v : Half) : (s.setCrc v).frame = s.frame := rfl
@[simp] theorem State.setCrc_snap (s : State) (v : Half) : (s.setCrc v).snap = s.snap := rfl
@[simp] theorem State.setCrc_rsp (s : State) (v : Half) : (s.setCrc v).rsp = s.rsp := rfl
@[simp] theorem State.setCrc_rd (s : State) (v : Half) : (s.setCrc v).rd = s.rd := rfl
@[simp] theorem State.setCrc_inputs (s : State) (v : Half) : (s.setCrc v).inputs = s.inputs := rfl
@[simp] theorem State.setCrc_draws (s : State) (v : Half) : (s.setCrc v).draws = s.draws := rfl

@[simp] theorem State.setPb_cfg (s : State) (v : List Byte) : (s.setPb v).cfg = s.cfg := rfl
@[simp] theorem State.setPb_crc (s : State) (v : List Byte) : (s.setPb v).crc = s.crc := rfl
@[simp] theorem State.setPb_pb (s : State) (v : List Byte) : (s.setPb v).pb = v := rfl
@[simp] theorem State.setPb_fb (s : State) (v : List Byte) : (s.setPb v).fb = s.fb := rfl
@[simp] theorem State.setPb_err (s : State) (v : List Byte) : (s.setPb v).err = s.err := rfl
@[simp] theorem State.setPb_frame (s : State) (v : List Byte) : (s.setPb v).frame = s.frame := rfl
@[simp] theorem State.setPb_snap (s : State) (v : List Byte) : (s.setPb v).snap = s.snap := rfl
@[simp] theorem State.setPb_rsp (s : State) (v : List Byte) : (s.setPb v).rsp = s.rsp := rfl
@[simp] theorem State.setPb_rd (s : State) (v : List Byte) : (s.setPb v).rd = s.rd := rfl
@[simp] theorem State.setPb_inputs (s : State) (v : List Byte) : (s.setPb v).inputs = s.inputs := rfl
@[simp] theorem State.setPb_draws (s : State) (v : List Byte) : (s.setPb v).draws = s.draws := rfl

@[simp] theorem State.setFb_cfg (s : State) (v : List Byte) : (s.setFb v).cfg = s.cfg := rfl
@[simp] theorem State.setFb_crc (s : State) (v : List Byte) : (s.setFb v).crc = s.crc := rfl
@[simp] theorem State.setFb_pb (s : State) (v : List Byte) : (s.setFb v).pb = s.pb := rfl
@[simp] theorem State.setFb_fb (s : State) (v : List Byte) : (s.setFb v).fb = v := rfl
@[simp] theorem State.setFb_err (s : State) (v : List Byte) : (s.setFb v).err = s.err := rfl
@[simp] theorem State.setFb_frame (s : State) (v : List Byte) : (s.setFb v).frame = s.frame := rfl
@[simp] theorem State.setFb_snap (s : State) (v : List Byte) : (s.setFb v).snap = s.snap := rfl
@[simp] theorem State.setFb_rsp (s : State) (v : List Byte) : (s.setFb v).rsp = s.rsp := rfl
@[simp] theorem State.setFb_rd (s : State) (v : List Byte) : (s.setFb v).rd = s.rd := rfl
@[simp] theorem State.setFb_inputs (s : State) (v : List Byte) : (s.setFb v).inputs = s.inputs := rfl
@[simp] theorem State.setFb_draws (s : State) (v : List Byte) : (s.setFb v).draws = s.draws := rfl

@[simp] theorem State.setFrame_cfg (s : State) (v : Option FrameRegs) : (s.setFrame v).cfg = s.cfg := rfl
@[simp] theorem State.setFrame_crc (s : State) (v : Option FrameRegs) : (s.setFrame v).crc = s.crc := rfl
@[simp] theorem State.setFrame_pb (s : State) (v : Option FrameRegs) : (s.setFrame v).pb = s.pb := rfl
@[simp] theorem State.setFrame_fb (s : State) (v : Option FrameRegs) : (s.setFrame v).fb = s.fb := rfl
@[simp] theorem State.setFrame_err (s : State) (v : Option FrameRegs) : (s.setFrame v).err = s.err := rfl
@[simp] theorem State.setFrame_frame (s : State) (v : Option FrameRegs) : (s.setFrame v).frame = v := rfl
@[simp] theorem State.setFrame_snap (s : State) (v : Option FrameRegs) : (s.setFrame v).snap = s.snap := rfl
@[simp] theorem State.setFrame_rsp (s : State) (v : Option FrameRegs) : (s.setFrame v).rsp = s.rsp := rfl
@[simp] theorem State.setFrame_rd (s : State) (v : Option FrameRegs) : (s.setFrame v).rd = s.rd := rfl
@[simp] theorem State.setFrame_inputs (s : State) (v : Option FrameRegs) : (s.setFrame v).inputs = s.inputs := rfl
@[simp] theorem State.setFrame_draws (s : State) (v : Option FrameRegs) : (s.setFrame v).draws = s.draws := rfl

@[simp] theorem State.setSnap_cfg (s : State) (v : Snapshot) : (s.setSnap v).cfg = s.cfg := rfl
@[simp] theorem State.setSnap_crc (s : State) (v : Snapshot) : (s.setSnap v).crc = s.crc := rfl
@[simp] theorem State.setSnap_pb (s : State) (v : Snapshot) : (s.setSnap v).pb = s.pb := rfl
@[simp] theorem State.setSnap_fb (s : State) (v : Snapshot) : (s.setSnap v).fb = s.fb := rfl
@[simp] theorem State.setSnap_err (s : State) (v : Snapshot) : (s.setSnap v).err = s.err := rfl
@[simp] theorem State.setSnap_frame (s : State) (v : Snapshot) : (s.setSnap v).frame = s.frame := rfl
@[simp] theorem State.setSnap_snap (s : State) (v : Snapshot) : (s.setSnap v).snap = some v := rfl
@[simp] theorem State.setSnap_rsp (s : State) (v : Snapshot) : (s.setSnap v).rsp = s.rsp := rfl
@[simp] theorem State.setSnap_rd (s : State) (v : Snapshot) : (s.setSnap v).rd = s.rd := rfl
@[simp] theorem State.setSnap_inputs (s : State) (v : Snapshot) : (s.setSnap v).inputs = s.inputs := rfl
@[simp] theorem State.setSnap_draws (s : State) (v : Snapshot) : (s.setSnap v).draws = s.draws := rfl

@[simp] theorem State.setInputs_cfg (s : State) (v : List HostInput) : (s.setInputs v).cfg = s.cfg := rfl
@[simp] theorem State.setInputs_crc (s : State) (v : List HostInput) : (s.setInputs v).crc = s.crc := rfl
@[simp] theorem State.setInputs_pb (s : State) (v : List HostInput) : (s.setInputs v).pb = s.pb := rfl
@[simp] theorem State.setInputs_fb (s : State) (v : List HostInput) : (s.setInputs v).fb = s.fb := rfl
@[simp] theorem State.setInputs_err (s : State) (v : List HostInput) : (s.setInputs v).err = s.err := rfl
@[simp] theorem State.setInputs_frame (s : State) (v : List HostInput) : (s.setInputs v).frame = s.frame := rfl
@[simp] theorem State.setInputs_snap (s : State) (v : List HostInput) : (s.setInputs v).snap = s.snap := rfl
@[simp] theorem State.setInputs_rsp (s : State) (v : List HostInput) : (s.setInputs v).rsp = s.rsp := rfl
@[simp] theorem State.setInputs_rd (s : State) (v : List HostInput) : (s.setInputs v).rd = s.rd := rfl
@[simp] theorem State.setInputs_inputs (s : State) (v : List HostInput) : (s.setInputs v).inputs = v := rfl
@[simp] theorem State.setInputs_draws (s : State) (v : List HostInput) : (s.setInputs v).draws = s.draws := rfl

@[simp] theorem State.setRd_cfg (s : State) (v : Word) : (s.setRd v).cfg = s.cfg := rfl
@[simp] theorem State.setRd_crc (s : State) (v : Word) : (s.setRd v).crc = s.crc := rfl
@[simp] theorem State.setRd_pb (s : State) (v : Word) : (s.setRd v).pb = s.pb := rfl
@[simp] theorem State.setRd_fb (s : State) (v : Word) : (s.setRd v).fb = s.fb := rfl
@[simp] theorem State.setRd_err (s : State) (v : Word) : (s.setRd v).err = s.err := rfl
@[simp] theorem State.setRd_frame (s : State) (v : Word) : (s.setRd v).frame = s.frame := rfl
@[simp] theorem State.setRd_snap (s : State) (v : Word) : (s.setRd v).snap = s.snap := rfl
@[simp] theorem State.setRd_rsp (s : State) (v : Word) : (s.setRd v).rsp = s.rsp := rfl
@[simp] theorem State.setRd_rd (s : State) (v : Word) : (s.setRd v).rd = some v := rfl
@[simp] theorem State.setRd_inputs (s : State) (v : Word) : (s.setRd v).inputs = s.inputs := rfl
@[simp] theorem State.setRd_draws (s : State) (v : Word) : (s.setRd v).draws = s.draws := rfl

@[simp] theorem State.addDraw_cfg (s : State) : s.addDraw.cfg = s.cfg := rfl
@[simp] theorem State.addDraw_crc (s : State) : s.addDraw.crc = s.crc := rfl
@[simp] theorem State.addDraw_pb (s : State) : s.addDraw.pb = s.pb := rfl
@[simp] theorem State.addDraw_fb (s : State) : s.addDraw.fb = s.fb := rfl
@[simp] theorem State.addDraw_err (s : State) : s.addDraw.err = s.err := rfl
@[simp] theorem State.addDraw_frame (s : State) : s.addDraw.frame = s.frame := rfl
@[simp] theorem State.addDraw_snap (s : State) : s.addDraw.snap = s.snap := rfl
@[simp] theorem State.addDraw_rsp (s : State) : s.addDraw.rsp = s.rsp := rfl
@[simp] theorem State.addDraw_rd (s : State) : s.addDraw.rd = s.rd := rfl
@[simp] theorem State.addDraw_inputs (s : State) : s.addDraw.inputs = s.inputs := rfl
@[simp] theorem State.addDraw_draws (s : State) : s.addDraw.draws = s.draws + 1 := rfl

@[simp] theorem State.answer_cfg (s : State) (c : Cause) : (s.answer c).cfg = s.cfg := rfl
@[simp] theorem State.answer_crc (s : State) (c : Cause) : (s.answer c).crc = s.crc := rfl
@[simp] theorem State.answer_pb (s : State) (c : Cause) : (s.answer c).pb = s.pb := rfl
@[simp] theorem State.answer_fb (s : State) (c : Cause) : (s.answer c).fb = s.fb := rfl
@[simp] theorem State.answer_err (s : State) (c : Cause) : (s.answer c).err = c := rfl
@[simp] theorem State.answer_frame (s : State) (c : Cause) : (s.answer c).frame = s.frame := rfl
@[simp] theorem State.answer_snap (s : State) (c : Cause) : (s.answer c).snap = s.snap := rfl
@[simp] theorem State.answer_rsp (s : State) (c : Cause) : (s.answer c).rsp = some c := rfl
@[simp] theorem State.answer_rd (s : State) (c : Cause) : (s.answer c).rd = s.rd := rfl
@[simp] theorem State.answer_inputs (s : State) (c : Cause) : (s.answer c).inputs = s.inputs := rfl
@[simp] theorem State.answer_draws (s : State) (c : Cause) : (s.answer c).draws = s.draws := rfl

@[simp] theorem State.respond_cfg (s : State) (c : Cause) : (s.respond c).cfg = s.cfg := rfl
@[simp] theorem State.respond_crc (s : State) (c : Cause) : (s.respond c).crc = s.crc := rfl
@[simp] theorem State.respond_pb (s : State) (c : Cause) : (s.respond c).pb = s.pb := rfl
@[simp] theorem State.respond_fb (s : State) (c : Cause) : (s.respond c).fb = s.fb := rfl
@[simp] theorem State.respond_err (s : State) (c : Cause) : (s.respond c).err = s.err := rfl
@[simp] theorem State.respond_frame (s : State) (c : Cause) : (s.respond c).frame = s.frame := rfl
@[simp] theorem State.respond_snap (s : State) (c : Cause) : (s.respond c).snap = s.snap := rfl
@[simp] theorem State.respond_rsp (s : State) (c : Cause) : (s.respond c).rsp = some c := rfl
@[simp] theorem State.respond_rd (s : State) (c : Cause) : (s.respond c).rd = s.rd := rfl
@[simp] theorem State.respond_inputs (s : State) (c : Cause) : (s.respond c).inputs = s.inputs := rfl
@[simp] theorem State.respond_draws (s : State) (c : Cause) : (s.respond c).draws = s.draws := rfl

@[simp] theorem State.resetInput_cfg (s : State) : s.resetInput.cfg = s.cfg := rfl
@[simp] theorem State.resetInput_crc (s : State) : s.resetInput.crc = s.cfg.crcInit := rfl
@[simp] theorem State.resetInput_pb (s : State) : s.resetInput.pb = [] := rfl
@[simp] theorem State.resetInput_fb (s : State) : s.resetInput.fb = [] := rfl
@[simp] theorem State.resetInput_err (s : State) : s.resetInput.err = .ok := rfl
@[simp] theorem State.resetInput_frame (s : State) : s.resetInput.frame = none := rfl
@[simp] theorem State.resetInput_snap (s : State) : s.resetInput.snap = none := rfl
@[simp] theorem State.resetInput_rsp (s : State) : s.resetInput.rsp = none := rfl
@[simp] theorem State.resetInput_rd (s : State) : s.resetInput.rd = none := rfl
@[simp] theorem State.resetInput_inputs (s : State) : s.resetInput.inputs = s.inputs := rfl
@[simp] theorem State.resetInput_draws (s : State) : s.resetInput.draws = s.draws := rfl

@[simp] theorem State.resetOf_cfg (c : Cfg) : (State.resetOf c).cfg = c := rfl
@[simp] theorem State.resetOf_crc (c : Cfg) : (State.resetOf c).crc = c.crcInit := rfl
@[simp] theorem State.resetOf_pb (c : Cfg) : (State.resetOf c).pb = [] := rfl
@[simp] theorem State.resetOf_fb (c : Cfg) : (State.resetOf c).fb = [] := rfl
@[simp] theorem State.resetOf_err (c : Cfg) : (State.resetOf c).err = .ok := rfl
@[simp] theorem State.resetOf_frame (c : Cfg) : (State.resetOf c).frame = none := rfl
@[simp] theorem State.resetOf_snap (c : Cfg) : (State.resetOf c).snap = none := rfl
@[simp] theorem State.resetOf_rsp (c : Cfg) : (State.resetOf c).rsp = none := rfl
@[simp] theorem State.resetOf_rd (c : Cfg) : (State.resetOf c).rd = none := rfl
@[simp] theorem State.resetOf_inputs (c : Cfg) : (State.resetOf c).inputs = [] := rfl
@[simp] theorem State.resetOf_draws (c : Cfg) : (State.resetOf c).draws = 0 := rfl

end Sys2Proof.Machine
end

