-- ==== Sys2Proof/Laws/Memory.lean ====
section
/-! SUPPORT. The cells of the block's memory: their canonical form, and what an address reads as. -/

namespace Sys2Proof.Machine

@[simp] theorem cellsFrom_nil (a : Nat) : cellsFrom a [] = [] := rfl

@[simp] theorem cellsFrom_cons (a : Nat) (b : Byte) (bs : List Byte) :
    cellsFrom a (b :: bs) = (a, b) :: cellsFrom (a + 1) bs := rfl

/-- The canonical form as a fact about pairs, which append and membership lemmas speak of. -/
theorem Memory.wf_iff_pairwise (m : Memory) :
    m.wf = true ↔ m.Pairwise (fun x y => x.1 < y.1) := by
  induction m with
  | nil => simp [Memory.wf]
  | cons x m ih =>
    cases m with
    | nil => simp [Memory.wf]
    | cons y m =>
      obtain ⟨a, u⟩ := x
      obtain ⟨b, v⟩ := y
      simp only [Memory.wf, Bool.and_eq_true, decide_eq_true_eq, ih, List.pairwise_cons,
        List.mem_cons, forall_eq_or_imp]
      refine ⟨fun ⟨h, h1, h2⟩ => ⟨⟨h, fun z hz => lt_trans h (h1 z hz)⟩, h1, h2⟩,
        fun ⟨⟨h, _⟩, h1, h2⟩ => ⟨h, h1, h2⟩⟩

/-- Cells laid out from a base lie in the range their number gives. -/
theorem mem_cellsFrom_range (a : Nat) (bs : List Byte) :
    ∀ x ∈ cellsFrom a bs, a ≤ x.1 ∧ x.1 < a + bs.length := by
  induction bs generalizing a with
  | nil => simp
  | cons b bs ih =>
    intro x hx
    rcases List.mem_cons.mp hx with rfl | hx
    · simp
    · have := ih (a + 1) x hx
      simp only [List.length_cons]
      omega

theorem cellsFrom_pairwise (a : Nat) (bs : List Byte) :
    (cellsFrom a bs).Pairwise (fun x y => x.1 < y.1) := by
  induction bs generalizing a with
  | nil => simp
  | cons b bs ih =>
    refine List.pairwise_cons.mpr ⟨fun x hx => ?_, ih (a + 1)⟩
    have := mem_cellsFrom_range (a + 1) bs x hx
    show a < x.1
    omega

theorem Memory.read_append (a : Nat) (m n : Memory) :
    Memory.read a (m ++ n) = (Memory.read a m).or (Memory.read a n) := by
  induction m with
  | nil => simp [Memory.read]
  | cons x m ih =>
    obtain ⟨b, y⟩ := x
    simp only [List.cons_append, Memory.read]
    split <;> simp [ih]

/-- An address of laid-out cells reads as the byte of the list; every other one has no value. -/
theorem Memory.read_cellsFrom (a base : Nat) (bs : List Byte) :
    Memory.read a (cellsFrom base bs) = if base ≤ a then bs[a - base]? else none := by
  induction bs generalizing base with
  | nil => simp [Memory.read]
  | cons b bs ih =>
    simp only [cellsFrom_cons, Memory.read, ih]
    by_cases h : a = base
    · subst h; simp
    · simp only [if_neg h]
      by_cases h1 : base ≤ a
      · have h2 : base + 1 ≤ a := by omega
        have h3 : a - base = (a - (base + 1)) + 1 := by omega
        simp [h1, h2, h3]
      · have h2 : ¬ base + 1 ≤ a := by omega
        simp [h1, h2]

theorem fbCap_le (c : Cfg) : fbCap c ≤ 0x200 := by
  have := c.maxPay_le
  simp only [fbCap, minFrame, hdrLen, ckLen]
  omega

theorem State.rawBytes_length_le (s : State) : s.rawBytes.length ≤ 112 := by
  unfold State.rawBytes
  split <;> simp

/-- The block's memory is canonical whenever the buffers fit. -/
theorem State.memory_wf (s : State) (h : s.BuffersFit) : s.memory.wf = true := by
  rw [Memory.wf_iff_pairwise]
  have hp := h.pb_le
  have hf := h.fb_le
  have hc := fbCap_le s.cfg
  simp only [pbCap] at hp
  simp only [State.memory, List.pairwise_append, List.mem_append]
  refine ⟨⟨cellsFrom_pairwise _ _, cellsFrom_pairwise _ _, fun x hx y hy => ?_⟩,
    cellsFrom_pairwise _ _, fun x hx y hy => ?_⟩
  · have := mem_cellsFrom_range _ _ x hx
    have := mem_cellsFrom_range _ _ y hy
    omega
  · have h3 := mem_cellsFrom_range _ _ y hy
    rcases hx with hx | hx
    · have := mem_cellsFrom_range _ _ x hx
      omega
    · have := mem_cellsFrom_range _ _ x hx
      omega

theorem State.buffersFit_resetOf (c : Cfg) : (State.resetOf c).BuffersFit :=
  ⟨by simp [pbCap], by simp⟩

theorem State.reset_memory_wf : State.reset.memory.wf = true :=
  State.memory_wf _ (State.buffersFit_resetOf _)

end Sys2Proof.Machine
end

