-- ==== Sys2Proof/Laws/Ops.lean ====
section
/-! SUPPORT. What each shared operation can do, said once, and that the buffers keep fitting. -/

namespace Sys2Proof.Machine

theorem complete_eq_next (s t : State) : complete s = .next t ↔ t = s.answer .ok := by
  simp [complete, eq_comm]

theorem raise_eq_next (c : Cause) (s t : State) : raise c s = .next t ↔ t = s.answer c := by
  simp [raise, eq_comm]

theorem decodeFail_eq_next (c : Cause) (s t : State) :
    decodeFail c s = .next t ↔ t = ((s.setFrame none).setPb []).answer c := by
  simp [decodeFail, raise, eq_comm]

/-- The four ways the pseudocode of `FC.DEC` ends (41_frame_codec.md R107). -/
theorem decodeFb_cases (s : State) :
    (s.fbTooShort ∧ decodeFb s = decodeFail .tooShort s) ∨
    (¬ s.fbTooShort ∧ ∃ l a r, l = (byteAt s.fb 1).toNat ∧
      a = crcAcc s.cfg (s.fb.take (l + 2)) ∧
      r = ckValue s.cfg (byteAt s.fb (l + 2)) (byteAt s.fb (l + 3)) ∧
      ((crcFin s.cfg a ≠ r ∧ decodeFb s = decodeFail .checksumMismatch (s.setCrc a)) ∨
       (crcFin s.cfg a = r ∧ supportedCommand (byteAt s.fb 0) = false ∧
        decodeFb s = decodeFail .unknownCommand (s.setCrc a)) ∨
       (crcFin s.cfg a = r ∧ supportedCommand (byteAt s.fb 0) = true ∧
        decodeFb s = complete (((s.setCrc a).setFrame (some {
          cmd := byteAt s.fb 0, len := byteAt s.fb 1, cksum := r
          excess := decide (l + 4 < s.fb.length) })).setPb ((s.fb.drop 2).take l))))) := by
  by_cases h : s.fbTooShort
  · refine .inl ⟨h, ?_⟩
    unfold decodeFb
    rcases h with h | h
    · rw [if_pos (by simpa [minFrame, hdrLen, ckLen] using h)]
    · split
      · rfl
      · rw [if_pos (by simpa [minFrame, hdrLen, ckLen] using h)]
  · refine .inr ⟨h, _, _, _, rfl, rfl, rfl, ?_⟩
    simp only [State.fbTooShort, not_or] at h
    unfold decodeFb
    rw [if_neg (by simpa [minFrame, hdrLen, ckLen] using h.1)]
    dsimp only
    rw [if_neg (by simpa [minFrame, hdrLen, ckLen] using h.2)]
    by_cases hc : crcFin s.cfg (crcAcc s.cfg (s.fb.take ((byteAt s.fb 1).toNat + 2))) =
        ckValue s.cfg (byteAt s.fb ((byteAt s.fb 1).toNat + 2)) (byteAt s.fb ((byteAt s.fb 1).toNat + 3))
    · cases hs : supportedCommand (byteAt s.fb 0)
      · exact .inr (.inl ⟨hc, rfl, by simp [hc]⟩)
      · exact .inr (.inr ⟨hc, rfl, by simp only [hc, ne_eq, not_true_eq_false, if_false]; rfl⟩)
    · exact .inl ⟨hc, by simp [hc]⟩

/-- A read-port access writes the read data and may draw a free value; nothing else. -/
theorem readPort_cases (ra : Addr) (s : State) :
    (∃ v, s.valueAt ra = some v ∧ readPort ra s = s.setRd v) ∨
    (s.valueAt ra = none ∧
      readPort ra s = (s.setRd (freeOfWidth (locate s.cfg ra).width s.draws)).addDraw) := by
  unfold readPort
  cases h : s.valueAt ra with
  | none => exact .inr ⟨rfl, rfl⟩
  | some v => exact .inl ⟨v, rfl, rfl⟩

/-- The width column of the read map (20_memory.md R42), for the locations that can be without a value. -/
theorem locate_width (c : Cfg) (ra : Addr) (w : Nat)
    (h : ((ra.toNat < 0x100 + fbCap c ∨ (0x300 ≤ ra.toNat ∧ ra.toNat < 0x370) ∨ ra = 0x405 ∨
        ra = 0x406) ∧ w = 8) ∨
      ((ra = 0x407 ∨ (0x410 ≤ ra.toNat ∧ ra.toNat < 0x413)) ∧ w = 16) ∨
      (ra = 0x408 ∧ w = 7) ∨ (ra = 0x409 ∧ w = 4) ∨
      (0x418 ≤ ra.toNat ∧ ra.toNat < 0x41C ∧ w = 32)) : (locate c ra).width = w := by
  have hc := fbCap_le c
  have reg (hr : 0x400 ≤ ra.toNat) : locate c ra = locateRegister ra.toNat := by
    unfold locate
    rw [if_neg (by omega), if_neg (by omega), dif_neg (by omega)]
  rcases h with ⟨h | h | h | h, rfl⟩ | ⟨h | h, rfl⟩ | ⟨h, rfl⟩ | ⟨h, rfl⟩ | ⟨h1, h2, rfl⟩
  · unfold locate
    rw [if_pos h]
    split <;> rfl
  · unfold locate
    rw [if_neg (by omega), if_neg (by omega), dif_pos h]; rfl
  · subst h; rw [reg (by decide)]; rfl
  · subst h; rw [reg (by decide)]; rfl
  · subst h; rw [reg (by decide)]; rfl
  · rw [reg (by omega)]
    obtain e | e | e : ra.toNat = 0x410 ∨ ra.toNat = 0x411 ∨ ra.toNat = 0x412 := by omega
    all_goals rw [e]; rfl
  · subst h; rw [reg (by decide)]; rfl
  · subst h; rw [reg (by decide)]; rfl
  · rw [reg (by omega)]
    obtain e | e | e | e : ra.toNat = 0x418 ∨ ra.toNat = 0x419 ∨ ra.toNat = 0x41A ∨ ra.toNat = 0x41B := by
      omega
    all_goals rw [e]; rfl

/-- The two ways `PB.PUSH` ends (43_buffer_ops.md R162). -/
theorem execPbPush_cases (d : Byte) (s : State) :
    (s.pb.length < 256 ∧ execPbPush d s = complete (s.setPb (s.pb ++ [d]))) ∨
    (256 ≤ s.pb.length ∧ execPbPush d s = raise .bufFull s) := by
  unfold execPbPush pbCap
  split
  · exact .inl ⟨‹_›, rfl⟩
  · exact .inr ⟨by omega, rfl⟩

/-- The two ways `FB.PUSH` ends (43_buffer_ops.md R164). -/
theorem execFbPush_cases (d : Byte) (s : State) :
    (s.fb.length < fbCap s.cfg ∧ execFbPush d s = complete (s.setFb (s.fb ++ [d]))) ∨
    (fbCap s.cfg ≤ s.fb.length ∧ execFbPush d s = raise .bufFull s) := by
  unfold execFbPush
  split
  · exact .inl ⟨‹_›, rfl⟩
  · exact .inr ⟨by omega, rfl⟩

/-- The two ways `FC.ENC` ends (41_frame_codec.md R103). -/
theorem execFcEnc_cases (c : Byte) (s : State) :
    (s.cfg.maxPay < s.pb.length ∧ execFcEnc c s = raise .invalidPayloadSize (s.setFb [])) ∨
    (s.pb.length ≤ s.cfg.maxPay ∧ ∃ a ck, a = crcAcc s.cfg (coveredBytes c s.pb) ∧
      ck = ckBytes s.cfg (crcFin s.cfg a) ∧
      execFcEnc c s = complete ((s.setFb (frameBytes c s.pb ck.1 ck.2)).setCrc a)) := by
  unfold execFcEnc
  split
  · exact .inl ⟨‹_›, rfl⟩
  · exact .inr ⟨by omega, _, _, rfl, rfl, rfl⟩

/-- A block is the bytes it was made of. -/
theorem asBlock_eq_some (s : List Byte) (raw : Vector Byte 112) :
    asBlock s = some raw ↔ raw.toList = s := by
  unfold asBlock
  split
  · rw [Option.some.injEq]
    constructor
    · rintro rfl; rfl
    · rintro rfl; exact Vector.toArray_inj.mp (Array.toArray_toList (xs := raw.toArray))
  · rename_i h
    simp only [reduceCtorEq, false_iff]
    rintro rfl
    simp [stateLen] at h

theorem asBlock_eq_none (s : List Byte) : asBlock s = none ↔ s.length ≠ 112 := by
  unfold asBlock stateLen
  split <;> simp [*]

/-- The two ways `SD.PARSE` ends (42_state_decoder.md R142). -/
theorem execSdParse_cases (d : Byte) (s : State) :
    (s.pb.length ≠ 112 ∧ execSdParse d s = raise .unexpectedLength s) ∨
    (∃ raw : Vector Byte 112, raw.toList = s.pb ∧
      execSdParse d s = complete (s.setSnap (parse s.cfg.layout raw))) := by
  unfold execSdParse
  cases h : asBlock s.pb with
  | none => exact .inl ⟨(asBlock_eq_none _).mp h, rfl⟩
  | some raw => exact .inr ⟨raw, (asBlock_eq_some _ _).mp h, rfl⟩

theorem execAll_append (is js : List Instr) (s t : State) (h : execAll is s = .next t) :
    execAll (is ++ js) s = execAll js t := by
  induction is generalizing s with
  | nil => simp only [execAll, Host.Outcome.next.injEq] at h; subst h; rfl
  | cons i is ih =>
    simp only [execAll, List.cons_append] at h ⊢
    cases hi : exec i s with
    | next u => rw [hi] at h; exact ih u h
    | fault r => rw [hi] at h; cases h
    | refused r => rw [hi] at h; cases h

/-! The operations that write a buffer keep it within its capacity, so memory stays canonical
(`State.memory_wf`). -/

theorem execPbPush_fits (d : Byte) (s t : State) (h : s.BuffersFit) (he : execPbPush d s = .next t) :
    t.BuffersFit := by
  rcases execPbPush_cases d s with ⟨hl, e⟩ | ⟨hl, e⟩
  · rw [e, complete_eq_next] at he
    subst he
    exact ⟨by simp [pbCap]; omega, h.fb_le⟩
  · rw [e, raise_eq_next] at he
    subst he
    exact ⟨h.pb_le, h.fb_le⟩

theorem execFbPush_fits (d : Byte) (s t : State) (h : s.BuffersFit) (he : execFbPush d s = .next t) :
    t.BuffersFit := by
  rcases execFbPush_cases d s with ⟨hl, e⟩ | ⟨hl, e⟩
  · rw [e, complete_eq_next] at he
    subst he
    exact ⟨h.pb_le, by simp; omega⟩
  · rw [e, raise_eq_next] at he
    subst he
    exact ⟨h.pb_le, h.fb_le⟩

theorem execFcEnc_fits (c : Byte) (s t : State) (h : s.BuffersFit) (he : execFcEnc c s = .next t) :
    t.BuffersFit := by
  rcases execFcEnc_cases c s with ⟨hl, e⟩ | ⟨hl, a, ck, -, -, e⟩
  · rw [e, raise_eq_next] at he
    subst he
    exact ⟨h.pb_le, by simp⟩
  · rw [e, complete_eq_next] at he
    subst he
    exact ⟨h.pb_le, by simp [frameBytes, fbCap, minFrame, hdrLen, ckLen]; omega⟩

theorem decodeFb_fits (s t : State) (h : s.BuffersFit) (he : decodeFb s = .next t) : t.BuffersFit := by
  have hb : (byteAt s.fb 1).toNat < 256 := (byteAt s.fb 1).isLt
  rcases decodeFb_cases s with ⟨-, e⟩ | ⟨-, l, a, r, hl, -, -, ⟨-, e⟩ | ⟨-, -, e⟩ | ⟨-, -, e⟩⟩
  · rw [e, decodeFail_eq_next] at he
    subst he
    exact ⟨by simp, h.fb_le⟩
  · rw [e, decodeFail_eq_next] at he
    subst he
    exact ⟨by simp, h.fb_le⟩
  · rw [e, decodeFail_eq_next] at he
    subst he
    exact ⟨by simp, h.fb_le⟩
  · rw [e, complete_eq_next] at he
    subst he
    refine ⟨?_, h.fb_le⟩
    simp only [State.answer_pb, State.setPb_pb, List.length_take, pbCap]
    omega

theorem receiveFrame_fits (bytes : List Byte) (s t : State) (h : s.BuffersFit)
    (he : receiveFrame bytes s = .next t) : t.BuffersFit :=
  decodeFb_fits (s.setFb (bytes.take (fbCap s.cfg))) t
    ⟨h.pb_le, by simp only [State.setFb_fb, State.setFb_cfg, List.length_take]; omega⟩ he

end Sys2Proof.Machine
end

