-- ==== Sys2Proof/Laws/PerInstr.lean ====
section
/-! SUPPORT. One statement per instruction about its encoding: the bits the opcode table fixes. -/

namespace Sys2Proof.Laws.FixedBits

/-- The bits spec/opcode_table.json fixes for an instruction's row: bits 11:8 of the request word
(30_encoding.md R69, R71), or byte 0 of the frame (R64 to R66). -/
def Statement : Instr → Prop
  | .nop d => ∃ w, encode (.nop d) = .request w ∧ reqOp w = 0x0
  | .crcInit d => ∃ w, encode (.crcInit d) = .request w ∧ reqOp w = 0x1
  | .crcByte d => ∃ w, encode (.crcByte d) = .request w ∧ reqOp w = 0x2
  | .pbClr d => ∃ w, encode (.pbClr d) = .request w ∧ reqOp w = 0x3
  | .pbPush d => ∃ w, encode (.pbPush d) = .request w ∧ reqOp w = 0x4
  | .fbClr d => ∃ w, encode (.fbClr d) = .request w ∧ reqOp w = 0x5
  | .fbPush d => ∃ w, encode (.fbPush d) = .request w ∧ reqOp w = 0x6
  | .fcEnc c => ∃ w, encode (.fcEnc c) = .request w ∧ reqOp w = 0x7
  | .fcDec d => ∃ w, encode (.fcDec d) = .request w ∧ reqOp w = 0x8
  | .sdParse d => ∃ w, encode (.sdParse d) = .request w ∧ reqOp w = 0x9
  | .reservedA d => ∃ w, encode (.reservedA d) = .request w ∧ reqOp w = 0xA
  | .reservedB d => ∃ w, encode (.reservedB d) = .request w ∧ reqOp w = 0xB
  | .reservedC d => ∃ w, encode (.reservedC d) = .request w ∧ reqOp w = 0xC
  | .reservedD d => ∃ w, encode (.reservedD d) = .request w ∧ reqOp w = 0xD
  | .reservedE d => ∃ w, encode (.reservedE d) = .request w ∧ reqOp w = 0xE
  | .reservedF d => ∃ w, encode (.reservedF d) = .request w ∧ reqOp w = 0xF
  | .cmdQuery p a b => ∃ bs, encode (.cmdQuery p a b) = .frame bs ∧ bs.head? = some 0x52
  | .cmdControl p a b => ∃ bs, encode (.cmdControl p a b) = .frame bs ∧ bs.head? = some 0x57
  | .cmdCounter p a b => ∃ bs, encode (.cmdCounter p a b) = .frame bs ∧ bs.head? = some 0x58

theorem nop (d : Byte) : Statement (.nop d) := ⟨_, rfl, reqOp_mkRequest _ d⟩
theorem crcInit (d : Byte) : Statement (.crcInit d) := ⟨_, rfl, reqOp_mkRequest _ d⟩
theorem crcByte (d : Byte) : Statement (.crcByte d) := ⟨_, rfl, reqOp_mkRequest _ d⟩
theorem pbClr (d : Byte) : Statement (.pbClr d) := ⟨_, rfl, reqOp_mkRequest _ d⟩
theorem pbPush (d : Byte) : Statement (.pbPush d) := ⟨_, rfl, reqOp_mkRequest _ d⟩
theorem fbClr (d : Byte) : Statement (.fbClr d) := ⟨_, rfl, reqOp_mkRequest _ d⟩
theorem fbPush (d : Byte) : Statement (.fbPush d) := ⟨_, rfl, reqOp_mkRequest _ d⟩
theorem fcEnc (c : Byte) : Statement (.fcEnc c) := ⟨_, rfl, reqOp_mkRequest _ c⟩
theorem fcDec (d : Byte) : Statement (.fcDec d) := ⟨_, rfl, reqOp_mkRequest _ d⟩
theorem sdParse (d : Byte) : Statement (.sdParse d) := ⟨_, rfl, reqOp_mkRequest _ d⟩
theorem reservedA (d : Byte) : Statement (.reservedA d) := ⟨_, rfl, reqOp_mkRequest _ d⟩
theorem reservedB (d : Byte) : Statement (.reservedB d) := ⟨_, rfl, reqOp_mkRequest _ d⟩
theorem reservedC (d : Byte) : Statement (.reservedC d) := ⟨_, rfl, reqOp_mkRequest _ d⟩
theorem reservedD (d : Byte) : Statement (.reservedD d) := ⟨_, rfl, reqOp_mkRequest _ d⟩
theorem reservedE (d : Byte) : Statement (.reservedE d) := ⟨_, rfl, reqOp_mkRequest _ d⟩
theorem reservedF (d : Byte) : Statement (.reservedF d) := ⟨_, rfl, reqOp_mkRequest _ d⟩
theorem cmdQuery (p : List Byte) (a b : Byte) : Statement (.cmdQuery p a b) := ⟨_, rfl, rfl⟩
theorem cmdControl (p : List Byte) (a b : Byte) : Statement (.cmdControl p a b) := ⟨_, rfl, rfl⟩
theorem cmdCounter (p : List Byte) (a b : Byte) : Statement (.cmdCounter p a b) := ⟨_, rfl, rfl⟩

end Sys2Proof.Laws.FixedBits
end

