-- ==== Sys2Proof/Tests/Slice0.lean ====
section
/-! SUPPORT. Smoke tests of the checks, encodings written out bit by bit, one-step tests with the
expected values of 95_test_vectors.md, and a witness for the hypotheses of each statement. -/

namespace Sys2Proof.Tests

-- The tests are elaborated one after the other: each waits for the kernel, and a thread each is too many.
set_option Elab.async false

open Sys2Proof Sys2Proof.Machine

/-! ### Fixtures: the test layout `T0` and `CFG0` (95_test_vectors.md sections 1.1, 1.2) -/

def layoutT0 : Layout where
  offState := #v[52, 56, 60]
  offSignal := #v[50, 54, 58]
  flagValve := ⟨4, 0x01, false, by decide⟩
  flagDry := ⟨7, 0xFF, false, by decide⟩
  flagAutoClose := ⟨4, 0x04, true, by decide⟩
  lineMode := #v[⟨5, 0x01, false, by decide⟩, ⟨5, 0x02, false, by decide⟩, ⟨5, 0x04, false, by decide⟩,
    ⟨5, 0x08, false, by decide⟩]
  offValue := #v[96, 100, 104, 108]
  cntOrder := .le

def cfg0 : Cfg := Cfg.cfg0 layoutT0
def cfgHi : Cfg := { cfg0 with cksumOrder := .hiFirst }
def cfgKermit : Cfg := { cfg0 with crcInit := 0, crcRefin := true, crcRefout := true }
def cfg112 : Cfg := { cfg0 with maxPay := 112, maxPay_ge := by decide, maxPay_le := by decide }

/-- The state after reset, under a fixture configuration. -/
def start : State := State.resetOf cfg0

def zeros (n : Nat) : List Byte := List.replicate n 0

/-- The block `B0` of 95_test_vectors.md section 6. -/
def blockB0 : List Byte :=
  [0x00, 0x00, 0x00, 0x00, 0x05, 0x0A, 0x00, 0x80] ++ zeros 42
    ++ [0x03, 0x00, 0x03, 0x64, 0x02, 0x00, 0x02, 0xD6, 0x00, 0x00, 0x00, 0x80] ++ zeros 34
    ++ [0x78, 0x56, 0x34, 0x12, 0xFF, 0xFF, 0xFF, 0xFF, 0x00, 0x00, 0x00, 0x00, 0x01, 0x00, 0x00, 0x00]

def rawB0 : Vector Byte 112 := ⟨blockB0.toArray, by decide⟩

def frameRecord : FrameRegs := { cmd := 0x52, len := 112, cksum := 0xDBBD, excess := false }

/-- A state that holds something everywhere: a frame, a snapshot, both buffers. -/
def loaded : State := { start with
  pb := blockB0, fb := [0x52, 0x00, 0xD2, 0x75], frame := some frameRecord
  snap := some (parse layoutT0 rawB0) }

/-- Both buffers full, whatever the bytes. -/
def full : State := { start with pb := zeros 256, fb := zeros 259 }

def withFb (bytes : List Byte) : State := { start with fb := bytes }
def withPb (bytes : List Byte) : State := { start with pb := bytes }
def withInput (h : HostInput) : State := { loaded with inputs := [h] }

def after (o : Host.Outcome State Fault Refusal) : Option State :=
  match o with
  | .next t => some t
  | .fault _ => none
  | .refused _ => none

/-- The response code after an outcome. -/
def rspOf (o : Host.Outcome State Fault Refusal) : Option Cause := (after o).bind (·.rsp)

/-- What the read map shows after an outcome. -/
def reads (ra : Addr) (o : Host.Outcome State Fault Refusal) : Option Word :=
  (after o).bind (·.valueAt ra)

/-! ### The checks refuse what is ill formed (00_scope.md R5, 30_encoding.md R61) -/

def rawT0 : RawCfg where
  crcInit := 0xFFFF
  crcRefin := false
  crcRefout := false
  crcXorout := 0
  cksumOrder := .loFirst
  maxPay := 255
  offState := #v[52, 56, 60]
  offSignal := #v[50, 54, 58]
  flagValve := ⟨4, 0x01, false⟩
  flagDry := ⟨7, 0xFF, false⟩
  flagAutoClose := ⟨4, 0x04, true⟩
  lineMode := #v[⟨5, 0x01, false⟩, ⟨5, 0x02, false⟩, ⟨5, 0x04, false⟩, ⟨5, 0x08, false⟩]
  offValue := #v[96, 100, 104, 108]
  cntOrder := .le

theorem smoke_config_accepted : rawT0.check = .ok cfg0 := by decide

theorem smoke_maxpay_too_small : { rawT0 with maxPay := 111 }.check = .error .maxPayOutOfRange := by
  decide

theorem smoke_maxpay_too_large : { rawT0 with maxPay := 256 }.check = .error .maxPayOutOfRange := by
  decide

theorem smoke_maxpay_bounds :
    { rawT0 with maxPay := 112 }.check = .ok cfg112 ∧
    { rawT0 with offState := #v[52, 56, 111] }.check =
      .ok { cfg0 with layout := { layoutT0 with offState := #v[52, 56, 111] } } := by
  decide

theorem smoke_offset_outside :
    { rawT0 with offSignal := #v[50, 112, 58] }.check = .error .offsetOutsideBlock ∧
    { rawT0 with flagDry := ⟨112, 0xFF, false⟩ }.check = .error .offsetOutsideBlock := by
  decide

theorem smoke_counter_outside :
    { rawT0 with offValue := #v[96, 100, 104, 109] }.check = .error .counterOutsideBlock := by
  decide

theorem smoke_zero_mask :
    { rawT0 with flagValve := ⟨4, 0x00, false⟩ }.check = .error .zeroMask := by
  decide

theorem smoke_payload_bounds :
    (Instr.cmdQuery (zeros 255) 0 0).wellFormed = true ∧
    (Instr.cmdQuery (zeros 256) 0 0).wellFormed = false ∧
    (Instr.cmdControl (zeros 256) 0 0).wellFormed = false ∧
    (Instr.cmdCounter (zeros 256) 0 0).wellFormed = false := by
  decide +kernel

/-! ### Encodings written out bit by bit (30_encoding.md R60, R68, R69, R71) -/

theorem decode_housekeeping_words :
    decode (.request 0b000011111111) = .ok (.nop 0xFF) ∧
    decode (.request 0b001100000000) = .ok (.pbClr 0) ∧
    decode (.request 0b010000010001) = .ok (.pbPush 0x11) ∧
    decode (.request 0b010100000000) = .ok (.fbClr 0) ∧
    decode (.request 0b011001010010) = .ok (.fbPush 0x52) := by
  decide

theorem decode_checksum_words :
    decode (.request 0b000110100101) = .ok (.crcInit 0xA5) ∧
    decode (.request 0b001000110001) = .ok (.crcByte 0x31) := by
  decide

theorem decode_codec_words :
    decode (.request 0b011101010111) = .ok (.fcEnc 0x57) ∧
    decode (.request 0b100000000000) = .ok (.fcDec 0) ∧
    decode (.request 0b100100000000) = .ok (.sdParse 0) := by
  decide

theorem decode_reserved_words :
    decode (.request 0b101001010101) = .ok (.reservedA 0x55) ∧
    decode (.request 0b101100000000) = .ok (.reservedB 0) ∧
    decode (.request 0b110000000000) = .ok (.reservedC 0) ∧
    decode (.request 0b110100000000) = .ok (.reservedD 0) ∧
    decode (.request 0b111000000000) = .ok (.reservedE 0) ∧
    decode (.request 0b111111111111) = .ok (.reservedF 0xFF) := by
  decide

/-- The frames of 95_test_vectors.md section 4.1. -/
theorem decode_wire_frames :
    decode (.frame [0b01010010, 0b00000000, 0b11010010, 0b01110101]) = .ok (.cmdQuery [] 0xD2 0x75) ∧
    decode (.frame [0b01010111, 0b00000001, 0b10101010, 0xC7, 0xD9]) =
      .ok (.cmdControl [0xAA] 0xC7 0xD9) ∧
    decode (.frame [0b01011000, 0b00000010, 0x01, 0x02, 0x8C, 0x5F]) =
      .ok (.cmdCounter [0x01, 0x02] 0x8C 0x5F) := by
  decide

theorem decode_rejects_by_name :
    decode (.frame []) = .error .tooShort ∧
    decode (.frame [0x52, 0x00, 0xD2]) = .error .tooShort ∧
    decode (.frame [0x52, 0x01, 0xD2, 0x75]) = .error .incomplete ∧
    decode (.frame [0x52, 0x00, 0xD2, 0x75, 0xDE]) = .error .bytesAfterFrame ∧
    decode (.frame [0x53, 0x00, 0xD2, 0x75]) = .error .unsupportedCommand := by
  decide

theorem encode_written_words :
    encode (.crcByte 0x31) = .request 0x231 ∧
    encode (.sdParse 0) = .request 0x900 ∧
    encode (.cmdQuery [] 0xD2 0x75) = .frame [0x52, 0x00, 0xD2, 0x75] := by
  decide

/-- 30_encoding.md R73: the written form. -/
theorem assemble_written_forms :
    assemble "FC.ENC" (some 0x57) = some (.fcEnc 0x57) ∧
    assemble "CRC.INIT" none = some (.crcInit 0) ∧
    assemble "NOP" (some 0) = none := by
  decide

theorem table_words :
    decodeTableWord 16 0xA55 = some (.reservedA 0x55) ∧
    decodeTableWord 16 0x231 = some (.crcByte 0x31) ∧
    decodeTableWord 16 0x1000 = none ∧
    decodeTableWord 8 0x57 = some (.cmdControl [] 0 0) ∧
    decodeTableWord 8 0x53 = none := by
  decide

/-- From the state after reset, a table word placed is what the next step runs. -/
theorem step_runs_fetch_word :
    rspOf (step (State.reset.withFetchWord 16 0x231)) = some .ok ∧
    ((after (step (State.reset.withFetchWord 16 0x231))).map (·.crc)) = some 0xC782 ∧
    rspOf (step (State.reset.withFetchWord 16 0xA00)) = some .illegalOp ∧
    rspOf (step (State.reset.withFetchWord 16 0x900)) = some .unexpectedLength ∧
    rspOf (step (State.reset.withFetchWord 8 0x52)) = some .checksumMismatch := by
  decide +kernel

theorem per_instr_example : Laws.FixedBits.Statement (.fcEnc 0x57) := Laws.FixedBits.fcEnc _

/-! ### One step of each instruction (95_test_vectors.md) -/

/-- Section 7: `NOP` after `ERR = 1` leaves `ERR`. -/
theorem test_nop_keeps_err :
    rspOf (exec (.nop 0xFF) { start with err := .tooShort }) = some .ok ∧
    reads 0x404 (exec (.nop 0xFF) { start with err := .tooShort }) = some 0x01 := by
  decide

/-- Section 3.4. -/
theorem test_crc_init :
    reads 0x400 (exec (.crcInit 0xA5) { start with crc := 0x3DBA }) = some 0xFFFF := by
  decide

/-- Sections 3.1, 3.3: `crc_step` and, under the KERMIT parameters, `CRC_OUT` after the last byte. -/
theorem test_crc_byte :
    reads 0x400 (exec (.crcByte 0x31) start) = some 0xC782 ∧
    reads 0x400 (exec (.crcByte 0x32) { start with crc := 0xC782 }) = some 0x3DBA := by
  decide +kernel

theorem test_crc_byte_reflected :
    crcStep cfgKermit 0 0x01 = 0x9188 ∧ crcFin cfgKermit 0x9184 = 0x2189 := by
  decide +kernel

/-- Section 3.2. -/
theorem test_crc_function :
    crc16ccitt cfg0 [] = 0xFFFF ∧ crc16ccitt cfg0 [0x80] = 0x7078 ∧
    crc16ccitt cfg0 [0x31, 0x32, 0x33, 0x34, 0x35, 0x36, 0x37, 0x38, 0x39] = 0x29B1 ∧
    crc16ccitt cfgKermit [0x31, 0x32, 0x33, 0x34, 0x35, 0x36, 0x37, 0x38, 0x39] = 0x2189 := by
  decide +kernel

theorem test_pb_clr : reads 0x402 (exec (.pbClr 0) loaded) = some 0 := by decide +kernel

/-- Section 7: the second push stands at index 1. -/
theorem test_pb_push :
    reads 0x001 (exec (.pbPush 0x22) (withPb [0x11])) = some 0x22 ∧
    reads 0x402 (exec (.pbPush 0x22) (withPb [0x11])) = some 2 ∧
    rspOf (exec (.pbPush 0xAB) full) = some .bufFull := by
  decide +kernel

theorem test_fb_clr : reads 0x403 (exec (.fbClr 0) loaded) = some 0 := by decide +kernel

theorem test_fb_push :
    reads 0x101 (exec (.fbPush 0x00) (withFb [0x52])) = some 0x00 ∧
    reads 0x403 (exec (.fbPush 0x00) (withFb [0x52])) = some 2 ∧
    rspOf (exec (.fbPush 0xAB) full) = some .bufFull := by
  decide +kernel

/-- Section 4.1: `CFG0`, and `CKSUM_ORDER = HI_FIRST`. -/
theorem test_fc_enc :
    (after (exec (.fcEnc 0x57) (withPb [1, 0, 0, 0, 0, 0]))).map (·.fb) =
      some [0x57, 0x06, 0x01, 0x00, 0x00, 0x00, 0x00, 0x00, 0xC7, 0xD9] ∧
    (after (exec (.fcEnc 0x52) (State.resetOf cfgHi))).map (·.fb) = some [0x52, 0x00, 0x75, 0xD2] ∧
    (after (exec (.fcEnc 0x52) (State.resetOf cfgKermit))).map (·.fb) =
      some [0x52, 0x00, 0x47, 0xE0] := by
  decide +kernel

/-- Section 4.5, last step: the old frame is gone. -/
theorem test_fc_enc_too_long :
    rspOf (exec (.fcEnc 0x57) full) = some .invalidPayloadSize ∧
    reads 0x403 (exec (.fcEnc 0x57) full) = some 0 ∧ reads 0x402 (exec (.fcEnc 0x57) full) = some 256 := by
  decide +kernel

/-- Section 4.4, steps 3 and 5. -/
theorem test_fc_dec :
    reads 0x404 (exec (.fcDec 0) (withFb [0x57, 6, 1, 0, 0, 0, 0, 0, 0xC7, 0xD9])) = some 0x10 ∧
    reads 0x404 (exec (.fcDec 0) (withFb [0x52, 0x00, 0xD2, 0x75, 0xDE])) = some 0x30 ∧
    reads 0x407 (exec (.fcDec 0) (withFb [0x52, 0x00, 0xD2, 0x75, 0xDE])) = some 0x75D2 ∧
    (after (exec (.fcDec 0) (withFb [0x57, 6, 1, 0, 0, 0, 0, 0, 0xC7, 0xD9]))).map (·.pb) =
      some [1, 0, 0, 0, 0, 0] := by
  decide +kernel

/-- Section 4.3. -/
theorem test_fc_dec_failures :
    rspOf (exec (.fcDec 0) (withFb [0x52, 0x00, 0xD2])) = some .tooShort ∧
    rspOf (exec (.fcDec 0) (withFb [0x52, 0x01, 0xD2, 0x75])) = some .tooShort ∧
    rspOf (exec (.fcDec 0) (withFb [0x53, 0x00, 0xD2, 0x75])) = some .checksumMismatch ∧
    rspOf (exec (.fcDec 0) (withFb [0x53, 0x01, 0xAA, 0x93, 0xEC])) = some .unknownCommand ∧
    reads 0x400 (exec (.fcDec 0) (withFb [0x52, 0x00, 0xD3, 0x75])) = some 0x75D2 := by
  decide +kernel

/-- Section 6 and program P4. -/
theorem test_sd_parse :
    reads 0x408 (exec (.sdParse 0) (withPb blockB0)) = some 0x43 ∧
    reads 0x409 (exec (.sdParse 0) (withPb blockB0)) = some 0x0A ∧
    reads 0x410 (exec (.sdParse 0) (withPb blockB0)) = some 0x640F ∧
    reads 0x411 (exec (.sdParse 0) (withPb blockB0)) = some 0x2A0A ∧
    reads 0x412 (exec (.sdParse 0) (withPb blockB0)) = some 0x6400 := by
  decide +kernel

theorem test_sd_parse_lines :
    reads 0x418 (exec (.sdParse 0) (withPb blockB0)) = some 0x12345678 ∧
    reads 0x41B (exec (.sdParse 0) (withPb blockB0)) = some 0x00000001 ∧
    reads 0x339 (exec (.sdParse 0) (withPb blockB0)) = some 0xD6 ∧
    reads 0x404 (exec (.sdParse 0) (withPb blockB0)) = some 0xC0 ∧
    rspOf (exec (.sdParse 0) (withPb (zeros 111))) = some .unexpectedLength := by
  decide +kernel

theorem test_counter_big_endian : u32 .be rawB0 96 = 0x78563412 ∧ u32 .le rawB0 96 = 0x12345678 := by
  decide +kernel

/-- Section 5.1. -/
theorem test_batt :
    batt 0x64 = (100, false) ∧ batt 0x65 = (100, true) ∧ batt 0x80 = (100, true) ∧
    batt 0x9B = (100, true) ∧ batt 0x9C = (100, false) ∧ batt 0xD6 = (42, false) ∧
    batt 0xFF = (1, false) := by
  decide

/-- Section 5.2: the whole byte is compared. -/
theorem test_sensor_codes :
    sstate 0x83 = .unknown ∧ sstate 0x02 = .triggered ∧ ssignal 0x03 = .level3of4 ∧
    ssignal 0x83 = .unknown := by
  decide

/-- 60_exceptions.md R180: the codes, as `STATUS` shows them after the failures of section 8. -/
theorem test_cause_codes :
    reads 0x404 (exec (.fcDec 0) start) = some 1 ∧
    reads 0x404 (exec (.fcDec 0) (withFb [0, 0, 0, 0])) = some 2 ∧
    reads 0x404 (exec (.fcDec 0) (withFb [0x53, 0x01, 0xAA, 0x93, 0xEC])) = some 3 ∧
    reads 0x404 (exec (.fcEnc 0x52) full) = some 4 ∧
    reads 0x404 (exec (.sdParse 0) start) = some 5 ∧
    reads 0x404 (exec (.pbPush 0) full) = some 6 := by
  decide +kernel

/-- Section 7: every reserved code. -/
theorem test_reserved_codes :
    rspOf (exec (.reservedA 0x55) loaded) = some .illegalOp ∧
    rspOf (exec (.reservedB 0) loaded) = some .illegalOp ∧
    rspOf (exec (.reservedC 0) loaded) = some .illegalOp ∧
    rspOf (exec (.reservedD 0) loaded) = some .illegalOp ∧
    rspOf (exec (.reservedE 0) loaded) = some .illegalOp ∧
    rspOf (exec (.reservedF 0) loaded) = some .illegalOp ∧
    reads 0x404 (exec (.reservedF 0) start) = some 0x07 := by
  decide +kernel

/-- Section 4.1's frames, received. -/
theorem test_wire_commands :
    reads 0x404 (exec (.cmdQuery [] 0xD2 0x75) start) = some 0x10 ∧
    reads 0x405 (exec (.cmdControl [1, 0, 0, 0, 0, 0] 0xC7 0xD9) start) = some 0x57 ∧
    reads 0x407 (exec (.cmdCounter [2, 0x78, 0x56, 0x34, 0x12] 0x8C 0x5F) start) = some 0x5F8C ∧
    rspOf (exec (.cmdQuery [] 0xD3 0x75) start) = some .checksumMismatch := by
  decide +kernel

/-- Section 7: unmapped reads, and a byte without a value. -/
theorem test_read_map :
    start.valueAt 0x203 = some 0 ∧ start.valueAt 0x2FF = some 0 ∧ start.valueAt 0x370 = some 0 ∧
    start.valueAt 0x40A = some 0 ∧ start.valueAt 0x413 = some 0 ∧ start.valueAt 0x41C = some 0 ∧
    start.valueAt 0xFFF = some 0 ∧ start.valueAt 0x400 = some 0xFFFF ∧
    (withPb [0x11, 0x22]).valueAt 0x005 = none := by
  decide +kernel

/-- Program P5: a failed decode and parse leave the old snapshot. -/
theorem test_stale_snapshot :
    reads 0x404 (exec (.sdParse 0) { loaded with pb := [], frame := none }) = some 0xC5 ∧
    reads 0x408 (exec (.sdParse 0) { loaded with pb := [], frame := none }) = some 0x43 := by
  decide +kernel

/-- The register after `52 70` and after each further 8 bytes of zero; the last is the section 3.2 row
for `52 70` and 112 bytes of zero. -/
def zeroChain (n : Nat) : Half :=
  ([0x0B45, 0x72E4, 0xE68F, 0xD1E2, 0x0936, 0xA1A1, 0xBC54, 0x81BB, 0x0309, 0xE3B9, 0x61F4, 0x2435,
    0x542F, 0x2016, 0xED36] : List Half).getD n 0

theorem zeroChain_links :
    crcAcc cfg0 [0x52, 0x70] = zeroChain 0 ∧
    ∀ i : Fin 14, (zeros 8).foldl (crcStep cfg0) (zeroChain i.val) = zeroChain (i.val + 1) := by
  decide +kernel

theorem foldl_zeros (n : Nat) (h : n < 15) :
    (zeros (8 * n)).foldl (crcStep cfg0) (zeroChain 0) = zeroChain n := by
  induction n with
  | zero => rfl
  | succ n ih =>
    have e : zeros (8 * (n + 1)) = zeros (8 * n) ++ zeros 8 := List.replicate_append_replicate.symm
    rw [e, List.foldl_append, ih (by omega)]
    exact zeroChain_links.2 ⟨n, by omega⟩

/-- Section 3.2, last row. -/
theorem test_crc_of_state_response : crcAcc cfg0 ([0x52, 0x70] ++ zeros 112) = 0xED36 := by
  have h : (zeros 112).foldl (crcStep cfg0) (zeroChain 0) = zeroChain 14 := foldl_zeros 14 (by decide)
  rw [← zeroChain_links.1] at h
  rw [crcAcc, List.foldl_append]
  exact h.trans (by decide)

/-! ### Witnesses: the hypotheses of each statement can be met, at the ends of their ranges -/

theorem loaded_inv : loaded.Inv where
  pb_le := by decide
  fb_le := by decide
  frame_supported := by intro f h; cases h; rfl
  frame_len := by intro f h; cases h; decide
  snap_parsed := by intro n h; cases h; rfl

theorem withInput_inv (h : HostInput) : (withInput h).Inv where
  pb_le := loaded_inv.pb_le
  fb_le := loaded_inv.fb_le
  frame_supported := loaded_inv.frame_supported
  frame_len := loaded_inv.frame_len
  snap_parsed := loaded_inv.snap_parsed

theorem full_fits : full.BuffersFit where
  pb_le := by decide +kernel
  fb_le := by decide +kernel

/-- One place short of full. -/
def almostFull : State := { start with pb := zeros 255, fb := zeros 258 }

theorem almostFull_fits : almostFull.BuffersFit where
  pb_le := by decide +kernel
  fb_le := by decide +kernel

theorem witness_DecodeInvertsEncode :
    (Instr.cmdQuery [] 0 0).wellFormed = true ∧ (Instr.cmdControl (zeros 255) 0xFF 0xFF).wellFormed = true ∧
    (Instr.cmdCounter (zeros 255) 0 0).wellFormed = true ∧ (Instr.sdParse 0xFF).wellFormed = true := by
  decide +kernel

theorem witness_EncodeInvertsDecode :
    decode (.request 0x000) = .ok (.nop 0) ∧ decode (.request 0xFFF) = .ok (.reservedF 0xFF) ∧
    decode (.frame [0x58, 0x00, 0x01, 0x02]) = .ok (.cmdCounter [] 0x01 0x02) := by
  decide

theorem witness_StepPerformsWhatIsPresented :
    (∃ s : State, s.inputs = .present (.request 0x900) :: [] ∧
      decode (.request 0x900) = .ok (.sdParse 0)) ∧
    (∃ s : State, s.inputs = .present (.frame [0x53, 0x00, 0xD2, 0x75]) :: [.reset] ∧
      decode (.frame [0x53, 0x00, 0xD2, 0x75]) = .error .unsupportedCommand) ∧
    (∃ s : State, s.inputs = .present (.frame [0x52, 0x00, 0xD2, 0x75]) :: [] ∧
      decode (.frame [0x52, 0x00, 0xD2, 0x75]) = .ok (.cmdQuery [] 0xD2 0x75)) ∧
    (∃ s : State, s.inputs = []) :=
  ⟨⟨withInput _, rfl, by decide⟩, ⟨{ loaded with inputs := _ }, rfl, by decide⟩,
    ⟨withInput _, rfl, by decide⟩, ⟨loaded, rfl⟩⟩

theorem witness_EveryOperationAnswers :
    ∃ t, (withInput (.present (.request 0x300))).inputs = .present (.request 0x300) :: [] ∧
      step (withInput (.present (.request 0x300))) = .next t := ⟨_, rfl, rfl⟩

/-- A step that parses, one that pushes, one that resets, from a state with a frame and a snapshot. -/
theorem witness_StepKeepsInvariant :
    (∃ s t, State.Inv s ∧ s.frame.isSome ∧ s.snap.isSome ∧ step s = .next t ∧ t.snap.isSome) ∧
    (∃ s t, State.Inv s ∧ step s = .next t ∧ t.pb.length = 113) ∧
    (∃ s t, State.Inv s ∧ step s = .next t ∧ t.snap = none) :=
  ⟨⟨withInput (.present (.request 0x3FF)), _, withInput_inv _, rfl, rfl, rfl, rfl⟩,
    ⟨withInput (.present (.request 0x4FF)), _, withInput_inv _, rfl, by decide +kernel⟩,
    ⟨withInput .reset, _, withInput_inv _, rfl, rfl⟩⟩

/-- A state with a snapshot and one without, and both ends of every range of addresses. -/
theorem witness_StepKeepsMemoryCanonical :
    (∃ s t, State.Inv s ∧ step s = .next t ∧ t.snap.isSome ∧
      Memory.read 0x335 t.memory = some 0x64 ∧ Memory.read 0x203 t.memory = none) ∧
    (∃ s t, State.Inv s ∧ step s = .next t ∧ t.snap = none) ∧
    255 < 256 ∧ 0 < fbCap cfg0 ∧ 258 < fbCap cfg0 ∧ 0x100 + fbCap cfg0 ≤ 0x203 ∧ 0x2FF < 0x300 ∧
    0x370 ≤ 0x370 :=
  ⟨⟨withInput (.read 0x400), _, withInput_inv _, rfl, rfl, by decide +kernel, by decide +kernel⟩,
    ⟨withInput .reset, _, withInput_inv _, rfl, rfl⟩, by decide, by decide, by decide, by decide, by decide,
    by decide⟩

theorem witness_ConfigurationIsNeverWritten : ∃ t, step (withInput .reset) = .next t := ⟨_, rfl⟩

theorem witness_OperationsWriteOnlyTheirState :
    (∃ t, exec (.nop 0) loaded = .next t) ∧ Instr.mayWriteCrc (.nop 0) = false ∧
    Instr.mayWritePb (.nop 0) = false ∧ Instr.mayWriteFb (.nop 0) = false ∧
    Instr.decodesFrame (.nop 0) = false ∧ (∀ d, Instr.nop 0 ≠ .sdParse d) ∧
    Instr.mayWriteCrc (.pbPush 0) = false ∧ Instr.mayWriteFb (.fcDec 0) = false ∧
    Instr.mayWritePb (.fcEnc 0) = false :=
  ⟨⟨_, rfl⟩, rfl, rfl, rfl, rfl, by simp, rfl, rfl, rfl⟩

theorem witness_ErrHoldsTheResponse :
    (∃ t, exec (.crcByte 1) loaded = .next t) ∧ (∀ d, Instr.crcByte 1 ≠ .nop d) ∧
    (∃ t, exec (.nop 1) loaded = .next t) := ⟨⟨_, rfl⟩, by simp, ⟨_, rfl⟩⟩

/-- Both outcomes of `FC.DEC`, without and with one byte after the frame. -/
theorem witness_FrameFlagsAreWrittenByDecoding :
    (∃ t, exec (.pbClr 0) loaded = .next t ∧ Instr.decodesFrame (.pbClr 0) = false) ∧
    rspOf (exec (.fcDec 0) (withFb [0x52, 0x00, 0xD2, 0x75])) = some .ok ∧
    rspOf (exec (.fcDec 0) (withFb [0x52, 0x00, 0xD2, 0x75, 0x00])) = some .ok ∧
    rspOf (exec (.fcDec 0) (withFb [0x52, 0x00, 0xD3, 0x75])) ≠ some .ok :=
  ⟨⟨_, rfl, rfl⟩, by decide +kernel, by decide +kernel, by decide +kernel⟩

/-- A reset, a parse of 112 bytes, and a step that is neither. -/
theorem witness_SnapshotChangesOnlyAsAWhole :
    (∃ t, step (withInput .reset) = .next t ∧ (withInput .reset).inputs = .reset :: []) ∧
    (∃ t, step (withInput (.present (.request 0x9AB))) = .next t ∧
      (withInput (.present (.request 0x9AB))).inputs = .present (.request 0x9AB) :: [] ∧
      reqOp 0x9AB = 0x9 ∧ rawB0.toList = (withInput (.present (.request 0x9AB))).pb) ∧
    ∃ t, step (withInput (.read 0x300)) = .next t ∧
      (∀ rest, (withInput (.read 0x300)).inputs ≠ .reset :: rest) ∧
      ∀ w rest, (withInput (.read 0x300)).inputs ≠ .present (.request w) :: rest :=
  ⟨⟨_, rfl, rfl⟩, ⟨_, rfl, rfl, by decide, rfl⟩, ⟨_, rfl, by simp [withInput], by simp [withInput]⟩⟩

/-- Every operation code is some word's. -/
theorem witness_OperationCodes :
    reqOp 0x0FF = 0x0 ∧ reqOp 0x1A5 = 0x1 ∧ reqOp 0x200 = 0x2 ∧ reqOp 0x3FF = 0x3 ∧ reqOp 0x400 = 0x4 ∧
    reqOp 0x500 = 0x5 ∧ reqOp 0x6FF = 0x6 ∧ reqOp 0x757 = 0x7 ∧ reqOp 0x800 = 0x8 ∧ reqOp 0x9FF = 0x9 ∧
    (∀ d, Instr.crcInit 0 ≠ .nop d) := by
  refine ⟨?_, ?_, ?_, ?_, ?_, ?_, ?_, ?_, ?_, ?_, by simp⟩ <;> decide

/-- `FC.DEC` with every check passed, for each of the three commands. -/
theorem witness_DecodeOperationAgreesWithDecode :
    crcFin cfg0 (crcAcc cfg0 [0x52, 0x00]) = ckValue cfg0 0xD2 0x75 ∧
    crcFin cfg0 (crcAcc cfg0 [0x57, 6, 1, 0, 0, 0, 0, 0]) = ckValue cfg0 0xC7 0xD9 ∧
    crcFin cfg0 (crcAcc cfg0 [0x58, 5, 2, 0x78, 0x56, 0x34, 0x12]) = ckValue cfg0 0x8C 0x5F ∧
    4 ≤ (withFb [0x52, 0x00, 0xD2, 0x75]).fb.length ∧
    (byteAt [0x52, 0x00, 0xD2, 0x75] 1).toNat + 4 ≤ (withFb [0x52, 0x00, 0xD2, 0x75]).fb.length ∧
    byteAt [0x52, 0x00, 0xD2, 0x75] 0 = 0x52 := by
  decide +kernel

theorem witness_FailuresWriteExactlyThis :
    full.cfg.maxPay < full.pb.length ∧
    (withFb [0x52, 0x00, 0xD2]).fb.length < 4 ∧
    (withFb [0x52, 0x01, 0xD2, 0x75]).fb.length < (byteAt [0x52, 0x01, 0xD2, 0x75] 1).toNat + 4 ∧
    crcFin cfg0 (crcAcc cfg0 [0x52, 0x00]) ≠ ckValue cfg0 0xD3 0x75 ∧
    crcFin cfg0 (crcAcc cfg0 [0x53, 0x01, 0xAA]) = ckValue cfg0 0x93 0xEC ∧
    (byteAt [0x53, 0x01, 0xAA, 0x93, 0xEC] 0 ≠ 0x52 ∧ byteAt [0x53, 0x01, 0xAA, 0x93, 0xEC] 0 ≠ 0x57 ∧
      byteAt [0x53, 0x01, 0xAA, 0x93, 0xEC] 0 ≠ 0x58) ∧
    (withPb (zeros 111)).pb.length ≠ 112 ∧ (withPb (zeros 113)).pb.length ≠ 112 ∧
    full.pb.length = 256 ∧ full.fb.length = full.cfg.maxPay + 4 ∧
    Instr.isReserved (.reservedA 0) = true := by
  decide +kernel

theorem witness_FailuresAreNotTooShort :
    ¬ (withFb [0x52, 0x00, 0xD3, 0x75]).fbTooShort ∧ ¬ (withFb [0x53, 0x01, 0xAA, 0x93, 0xEC]).fbTooShort := by
  constructor <;> (unfold State.fbTooShort; decide)

theorem witness_ReservedCodesAnswerIllegalOp :
    Instr.isReserved (.reservedF 0xFF) = true ∧ 0xA ≤ (reqOp 0xA00).toNat ∧ 0xA ≤ (reqOp 0xFFF).toNat := by
  decide

theorem witness_ReadsHaveNoSideEffect :
    (withInput (.read 0x000)).inputs = .read 0x000 :: [] ∧ (withInput (.read 0x000)).valueAt 0x000 = some 0 ∧
    (withInput (.read 0x070)).valueAt 0x070 = none ∧
    (withInput (.read 0x339)).valueAt 0x339 = some 0xD6 := by
  decide +kernel

/-- Both ends of every unmapped range. -/
theorem witness_UnmappedAddressesReadZero :
    (withInput (.read 0x203)).inputs = .read 0x203 :: [] ∧
    0x100 + fbCap (withInput (.read 0x203)).cfg ≤ (0x203 : Addr).toNat ∧ (0x2FF : Addr).toNat < 0x300 ∧
    0x370 ≤ (0x370 : Addr).toNat ∧ (0x3FF : Addr).toNat < 0x400 ∧
    0x40A ≤ (0x40A : Addr).toNat ∧ (0x40F : Addr).toNat < 0x410 ∧
    0x413 ≤ (0x413 : Addr).toNat ∧ (0x417 : Addr).toNat < 0x418 ∧
    0x41C ≤ (0x41C : Addr).toNat ∧ 0x41C ≤ (0xFFF : Addr).toNat := by
  decide

theorem witness_ReadMapIsAsTabulated :
    State.BuffersFit (withInput (.read 0x0FF)) ∧ 255 < 256 ∧ 258 < fbCap loaded.cfg ∧
    (withInput (.read 0x0FF)).inputs = .read 0x0FF :: [] ∧ (withInput (.read 0x0FF)).valueAt 0x0FF = none :=
  ⟨(withInput_inv _).toBuffersFit, by decide, by decide, rfl, by decide +kernel⟩

/-- Each way a location can be without a value, at its ends. -/
theorem witness_ValuelessLocationsReadFreely :
    loaded.valueAt 0x06F ≠ none ∧ loaded.valueAt 0x070 = none ∧ loaded.valueAt 0x0FF = none ∧
    loaded.valueAt 0x103 ≠ none ∧ loaded.valueAt 0x104 = none ∧ loaded.valueAt 0x202 = none ∧
    start.valueAt 0x405 = none ∧ start.valueAt 0x407 = none ∧ start.valueAt 0x300 = none ∧
    start.valueAt 0x36F = none ∧ start.valueAt 0x408 = none ∧ start.valueAt 0x409 = none ∧
    start.valueAt 0x410 = none ∧ start.valueAt 0x412 = none ∧ start.valueAt 0x418 = none ∧
    start.valueAt 0x41B = none ∧ (withInput (.read 0x070)).inputs = .read 0x070 :: [] := by
  decide +kernel

/-- An address without a value for each width, at both ends of each range, and the widths of the read map
(20_memory.md R42). -/
theorem witness_TabulatedWidths :
    (withInput (.read 0x405)).inputs = .read 0x405 :: [] ∧ (withPb []).valueAt 0x000 = none ∧
    (withFb []).valueAt 0x202 = none ∧ (0x202 : Addr).toNat < 0x100 + fbCap cfg0 ∧
    (locate cfg0 0x000).width = 8 ∧ (locate cfg0 0x202).width = 8 ∧ (locate cfg0 0x300).width = 8 ∧
    (locate cfg0 0x36F).width = 8 ∧ (locate cfg0 0x405).width = 8 ∧ (locate cfg0 0x406).width = 8 ∧
    (locate cfg0 0x407).width = 16 ∧ (locate cfg0 0x410).width = 16 ∧ (locate cfg0 0x412).width = 16 ∧
    (locate cfg0 0x408).width = 7 ∧ (locate cfg0 0x409).width = 4 ∧ (locate cfg0 0x418).width = 32 ∧
    (locate cfg0 0x41B).width = 32 := by
  decide +kernel

theorem witness_SnapshotBits : State.Inv loaded ∧ loaded.snap = some (parse layoutT0 rawB0) :=
  ⟨loaded_inv, rfl⟩

theorem witness_ResetInputResets :
    (withInput .reset).inputs = .reset :: [] ∧ (0x202 : Addr).toNat < 0x100 + fbCap cfg0 ∧
    0x300 ≤ (0x300 : Addr).toNat ∧ (0x36F : Addr).toNat < 0x370 ∧
    0x405 ≤ (0x405 : Addr).toNat ∧ (0x409 : Addr).toNat < 0x40A ∧
    0x410 ≤ (0x410 : Addr).toNat ∧ (0x412 : Addr).toNat < 0x413 ∧
    0x418 ≤ (0x418 : Addr).toNat ∧ (0x41B : Addr).toNat < 0x41C := by
  decide

theorem witness_ResetVoidsTheOperationBeforeIt : ∃ t, exec (.pbPush 1) loaded = .next t ∧ t.pb ≠ loaded.pb :=
  ⟨_, rfl, by decide +kernel⟩

theorem witness_CrcStepForms :
    cfg0.crcRefin = false ∧ cfgKermit.crcRefin = true ∧ cfg0.crcRefout = false ∧ cfg0.crcXorout = 0 ∧
    15 < 16 := by
  decide

/-- Two bytes with a push and a failed `FC.DEC` between them. -/
theorem witness_StreamingEqualsTheFunction :
    ∃ t u, exec (.crcInit 0) start = .next t ∧ Streams t [0x31, 0x32] u :=
  ⟨_, _, rfl, .byte _ _ _ _ _ rfl (.other _ _ _ (.pbPush 7) _ trivial rfl
    (.other _ _ _ (.fcDec 0) _ (.inl (by decide)) rfl (.byte _ _ _ _ _ rfl (.done _))))⟩

theorem witness_SingleBitFlipChangesChecksum :
    0 < [0x31#8, 0x32#8, 0x33#8].length ∧ 2 < [0x31#8, 0x32#8, 0x33#8].length := by
  decide

theorem witness_ChecksumWireBytes : cfg0.cksumOrder = .loFirst ∧ cfgHi.cksumOrder = .hiFirst := by decide

theorem witness_EncodeBuildsTheFrame :
    cfg0.maxPay < (zeros 256).length ∧ (zeros 255).length ≤ cfg0.maxPay ∧ (zeros 0).length ≤ cfg0.maxPay := by
  decide +kernel

theorem witness_EncodeOperationBuildsTheFrame :
    almostFull.pb.length ≤ almostFull.cfg.maxPay ∧ start.pb.length ≤ start.cfg.maxPay ∧
    full.cfg.maxPay < full.pb.length := by
  decide +kernel

/-- Every result of `decode`, with the length byte 0 and 1. -/
theorem witness_DecodeResults :
    (∃ f, frameDecode cfg0 [0x52, 0x00, 0xD2, 0x75] = .ok f) ∧
    frameDecode cfg0 [0x52, 0x00, 0xD2] = .error .tooShort ∧
    frameDecode cfg0 [0x52, 0x01, 0xD2, 0x75] = .error .tooShort ∧
    frameDecode cfg0 [0x53, 0x00, 0xD2, 0x75] = .error .checksumMismatch ∧
    frameDecode cfg0 [0x53, 0x01, 0xAA, 0x93, 0xEC] = .error .unknownCommand :=
  ⟨⟨{ command := 0x52, length := 0, payload := [], checksum := 0x75D2, excess := false }, by decide +kernel⟩,
    by decide +kernel, by decide +kernel, by decide +kernel, by decide +kernel⟩

theorem witness_BytesAfterTheFrameAreIgnored :
    (byteAt [0x52, 0x00, 0xD2, 0x75] 1).toNat + 4 ≤ [0x52#8, 0x00#8, 0xD2#8, 0x75#8].length ∧
    4 ≤ [0x52#8, 0x00#8, 0xD2#8, 0x75#8].length ∧
    (byteAt [0x52, 0x00, 0xD2, 0x75, 0xDE, 0xAD] 1).toNat + 4 ≤
      [0x52#8, 0x00#8, 0xD2#8, 0x75#8, 0xDE#8, 0xAD#8].length := by
  decide

theorem witness_FrameRoundTrip :
    (zeros 0).length ≤ cfg0.maxPay ∧ (zeros 255).length ≤ cfg0.maxPay ∧
    supportedCommand 0x52 = true ∧ supportedCommand 0x53 = false ∧
    (zeros 255).length ≤ start.cfg.maxPay := by
  decide +kernel

/-- The first and the last byte, and the length byte with a bit that is 0 and one that is 1. -/
theorem witness_FlippedFrameNeverReadsAsTheOriginal :
    frameEncode cfg0 0x57 [1, 0, 0, 0, 0, 0] =
      some [0x57, 0x06, 0x01, 0x00, 0x00, 0x00, 0x00, 0x00, 0xC7, 0xD9] ∧
    0 < 10 ∧ 9 < 10 ∧ Nat.testBit 6 0 = false ∧ Nat.testBit 6 1 = true ∧ supportedCommand 0x57 = true := by
  decide +kernel

theorem witness_LengthAboveMaxPayIsTooShort :
    ∃ s t : State, s.BuffersFit ∧ exec (.fcDec 0) s = .next t ∧ s.cfg.maxPay < (byteAt s.fb 1).toNat :=
  ⟨{ State.resetOf cfg112 with fb := [0x52, 113, 0, 0] }, _, ⟨by decide, by decide⟩, rfl, by decide⟩

theorem witness_CodecPostconditions :
    rspOf (exec (.fcEnc 0x57) (withPb [1, 2])) = some .ok ∧
    rspOf (exec (.fcDec 0) (withFb [0x52, 0x00, 0xD2, 0x75])) = some .ok := by
  decide +kernel

/-- The empty payload, and the longest one of `MAXPAY = 112` (section 4.1). -/
theorem witness_WireCommandIsAccepted :
    ((zeros 0).length ≤ cfg0.maxPay ∧
      ckValue cfg0 0xD2 0x75 = crc16ccitt cfg0 ([0x52, BitVec.ofNat 8 (zeros 0).length] ++ zeros 0)) ∧
    ((zeros 112).length ≤ cfg112.maxPay ∧
      ckValue cfg112 0x36 0xED = crc16ccitt cfg112 ([0x52, BitVec.ofNat 8 (zeros 112).length] ++ zeros 112)) := by
  refine ⟨by decide +kernel, by decide +kernel, ?_⟩
  change 0xED36 = crcFin cfg0 (crcAcc cfg0 ([0x52, 0x70] ++ zeros 112))
  rw [test_crc_of_state_response]
  rfl

theorem witness_WireCommandIsRefused :
    ((zeros 0).length ≤ cfg0.maxPay ∧ ckValue cfg0 0xD3 0x75 ≠ crc16ccitt cfg0 [0x52, 0x00]) ∧
    (cfg112.maxPay < (zeros 113).length ∧ (zeros 255).length ≤ 255 ∧ cfg112.maxPay < (zeros 255).length) := by
  decide +kernel

theorem witness_DeliveryIsLoadThenDecode :
    (withInput (.present (.frame [0x53]))).inputs = .present (.frame [0x53]) :: [] ∧
    encode (.cmdQuery [] 0xD2 0x75) = .frame [0x52, 0x00, 0xD2, 0x75] := by
  decide

theorem witness_CounterByteOrder :
    ∃ b : Fin 4 → Nat, ∀ (k : Fin 4) (h : (108 : Fin 109).val + k.val < 112),
      b k = (rawB0.get ⟨(108 : Fin 109).val + k.val, h⟩).toNat :=
  ⟨fun k => (rawB0.get ⟨108 + k.val, by omega⟩).toNat, fun _ _ => rfl⟩

theorem witness_FlagReadsItsDescriptor :
    layoutT0.flagValve.inv = false ∧ layoutT0.flagAutoClose.inv = true ∧
    (rawB0.get layoutT0.flagValve.off).getLsbD 0 = true ∧ layoutT0.flagValve.mask.getLsbD 0 = true := by
  decide +kernel

theorem witness_ParseWritesTheWholeSnapshot :
    loaded.pb.length = 112 ∧ (withPb (zeros 111)).pb.length ≠ 112 ∧ (withPb (zeros 113)).pb.length ≠ 112 ∧
    start.pb.length ≠ 112 := by
  decide +kernel

theorem witness_RawDeterminesTheSnapshot :
    (loaded.pb.length = 112 ∧ (rspOf (exec (.sdParse 0) loaded)) = some .ok) ∧
    (State.Inv loaded ∧ State.Inv (withInput .reset) ∧ loaded.cfg = (withInput .reset).cfg ∧
      ∃ m n, loaded.snap = some m ∧ (withInput .reset).snap = some n ∧ m.raw = n.raw) :=
  ⟨by decide +kernel, loaded_inv, withInput_inv _, rfl, _, _, rfl, rfl, rfl⟩

theorem witness_ClearsEmptyTheBuffer :
    (0x000 : Addr).toNat < 0x100 ∧ (0x0FF : Addr).toNat < 0x100 ∧ 0x100 ≤ (0x100 : Addr).toNat ∧
    (0x202 : Addr).toNat < 0x100 + fbCap loaded.cfg := by
  decide

theorem witness_PushesAppendOneByte :
    almostFull.pb.length < 256 ∧ full.pb.length = 256 ∧
    almostFull.fb.length < almostFull.cfg.maxPay + 4 ∧ full.fb.length = full.cfg.maxPay + 4 := by
  decide +kernel

theorem witness_OverfullBuffersCountAsFull :
    256 < (withPb (zeros 257)).pb.length ∧
    (withFb (zeros 260)).cfg.maxPay + 4 < (withFb (zeros 260)).fb.length := by
  decide +kernel

theorem witness_PushesStoreAtTheFillCount :
    State.BuffersFit almostFull ∧ rspOf (exec (.pbPush 1) almostFull) = some .ok ∧
    almostFull.pb.length < 256 ∧ rspOf (exec (.fbPush 1) almostFull) = some .ok ∧
    almostFull.fb.length < fbCap almostFull.cfg ∧ (0x0FE : Addr).toNat ≠ almostFull.pb.length ∧
    (0x201 : Addr).toNat ≠ 0x100 + almostFull.fb.length ∧ (0x400 : Addr) ≠ 0x402 ∧ (0x400 : Addr) ≠ 0x403 ∧
    (0x400 : Addr) ≠ 0x404 :=
  ⟨almostFull_fits, by decide +kernel, by decide +kernel, by decide +kernel, by decide +kernel, by decide +kernel,
    by decide +kernel, by decide, by decide, by decide⟩

theorem witness_RegisterOperationsStoreNothing :
    (∃ t, exec (.reservedC 9) loaded = .next t) ∧ (∃ t, exec (.crcByte 9) loaded = .next t) ∧
    (∃ t, exec (.crcInit 9) loaded = .next t) ∧ Instr.isReserved (.reservedC 9) = true ∧
    (0x403 : Addr) ≠ 0x404 ∧ (0x402 : Addr) ≠ 0x400 ∧ (0x402 : Addr) ≠ 0x401 :=
  ⟨⟨_, rfl⟩, ⟨_, rfl⟩, ⟨_, rfl⟩, rfl, by decide, by decide, by decide⟩

/-- An address each of the three leaves alone, at an end of a range it may write. -/
theorem witness_CodecAndDecoderFrames :
    State.BuffersFit loaded ∧ (∃ t, exec (.fcEnc 0x52) { loaded with pb := [] } = .next t) ∧
    rspOf (exec (.fcDec 0) loaded) = some .ok ∧ rspOf (exec (.sdParse 0) loaded) = some .ok ∧
    ¬ (0x100 ≤ (0x203 : Addr).toNat ∧ (0x203 : Addr).toNat < 0x100 + fbCap loaded.cfg) ∧
    ¬ (0x100 ≤ (0x0FF : Addr).toNat ∧ (0x0FF : Addr).toNat < 0x100 + fbCap loaded.cfg) ∧
    0x100 ≤ (0x100 : Addr).toNat ∧
    ¬ (0x300 ≤ (0x2FF : Addr).toNat ∧ (0x2FF : Addr).toNat < 0x370) ∧
    ¬ (0x408 ≤ (0x407 : Addr).toNat ∧ (0x407 : Addr).toNat < 0x41C) :=
  ⟨loaded_inv.toBuffersFit, ⟨_, rfl⟩, by decide +kernel, by decide +kernel, by decide, by decide, by decide,
    by decide, by decide⟩

theorem witness_SmallStatements :
    (128 : Nat) = (if (0x80 : Byte).getLsbD 7 = true then 256 - (0x80 : Byte).toNat else (0x80 : Byte).toNat) ∧
    (0x01 : Byte) ≠ 0x00 ∧ (0x01 : Byte) ≠ 0x02 ∧ (0x83 : Byte) ≠ 0x03 ∧ 8 ≤ 31 := by
  decide

end Sys2Proof.Tests
end

section
/-! PROOFS. What one instruction and one step can do, said once: the footprint of every instruction, the
two ways a decoding ends, and the four things a step can be. -/

namespace Sys2Proof.Machine

/-! ### What an instruction writes -/

/-- The two ways `FC.DEC` ends: no frame and no payload with a failure code, or the record of a supported
frame that stands whole in `FB` (41_frame_codec.md R107). -/
theorem decodeFb_outcome {s t : State} (h : decodeFb s = .next t) :
    (∃ a c, c ≠ .ok ∧ t = (((s.setCrc a).setFrame none).setPb []).answer c) ∨
    (∃ a f, supportedCommand f.cmd = true ∧ f.len.toNat + 4 ≤ s.fb.length ∧
      f.excess = decide (f.len.toNat + 4 < s.fb.length) ∧
      t = (((s.setCrc a).setFrame (some f)).setPb ((s.fb.drop 2).take f.len.toNat)).answer .ok) := by
  rcases decodeFb_cases s with
    ⟨-, e⟩ | ⟨hlen, l, a, r, rfl, -, -, ⟨-, e⟩ | ⟨-, -, e⟩ | ⟨-, hcmd, e⟩⟩
  · exact .inl ⟨s.crc, .tooShort, by decide, (decodeFail_eq_next _ _ _).mp (e ▸ h)⟩
  · exact .inl ⟨a, .checksumMismatch, by decide, (decodeFail_eq_next _ _ _).mp (e ▸ h)⟩
  · exact .inl ⟨a, .unknownCommand, by decide, (decodeFail_eq_next _ _ _).mp (e ▸ h)⟩
  · simp only [State.fbTooShort, not_or, not_lt] at hlen
    exact .inr ⟨a, _, hcmd, hlen.2, rfl, (complete_eq_next _ _).mp (e ▸ h)⟩

/-- `FC.DEC` writes `CRC`, the frame registers, `PB` and the answer, and nothing else. -/
theorem decodeFb_writes {s t : State} (h : decodeFb s = .next t) :
    ∃ a f p c, t = (((s.setCrc a).setFrame f).setPb p).answer c := by
  rcases decodeFb_outcome h with ⟨a, c, -, rfl⟩ | ⟨a, f, -, -, -, rfl⟩
  · exact ⟨a, none, [], c, rfl⟩
  · exact ⟨a, some f, _, .ok, rfl⟩

/-- How the state `t` after an instruction comes from the state `s` before it: the rows of the table in
10_state.md section 10 as named updates. -/
def Footprint (s t : State) : Instr → Prop
  | .nop _ => t = s.respond .ok
  | .crcInit _ | .crcByte _ => ∃ a, t = (s.setCrc a).answer .ok
  | .pbClr _ | .pbPush _ => ∃ p c, t = (s.setPb p).answer c
  | .fbClr _ | .fbPush _ => ∃ b c, t = (s.setFb b).answer c
  | .fcEnc _ => ∃ b a c, t = ((s.setFb b).setCrc a).answer c
  | .fcDec _ => ∃ a f p c, t = (((s.setCrc a).setFrame f).setPb p).answer c
  | .sdParse _ =>
    (s.pb.length ≠ 112 ∧ t = s.answer .unexpectedLength) ∨
    ∃ raw : Vector Byte 112, raw.toList = s.pb ∧
      t = (s.setSnap (parse s.cfg.layout raw)).answer .ok
  | .reservedA _ | .reservedB _ | .reservedC _ | .reservedD _ | .reservedE _ | .reservedF _ =>
    t = s.answer .illegalOp
  | .cmdQuery _ _ _ | .cmdControl _ _ _ | .cmdCounter _ _ _ =>
    ∃ b a f p c, t = ((((s.setFb b).setCrc a).setFrame f).setPb p).answer c

theorem execPbPush_footprint {d : Byte} {s t : State} (h : execPbPush d s = .next t) :
    ∃ p c, t = (s.setPb p).answer c := by
  rcases execPbPush_cases d s with ⟨-, e⟩ | ⟨-, e⟩
  · exact ⟨_, _, (complete_eq_next _ _).mp (e ▸ h)⟩
  · exact ⟨s.pb, _, (raise_eq_next _ _ _).mp (e ▸ h)⟩

theorem execFbPush_footprint {d : Byte} {s t : State} (h : execFbPush d s = .next t) :
    ∃ b c, t = (s.setFb b).answer c := by
  rcases execFbPush_cases d s with ⟨-, e⟩ | ⟨-, e⟩
  · exact ⟨_, _, (complete_eq_next _ _).mp (e ▸ h)⟩
  · exact ⟨s.fb, _, (raise_eq_next _ _ _).mp (e ▸ h)⟩

theorem execFcEnc_footprint {d : Byte} {s t : State} (h : execFcEnc d s = .next t) :
    ∃ b a c, t = ((s.setFb b).setCrc a).answer c := by
  rcases execFcEnc_cases d s with ⟨-, e⟩ | ⟨-, a, ck, -, -, e⟩
  · exact ⟨[], s.crc, _, (raise_eq_next _ _ _).mp (e ▸ h)⟩
  · exact ⟨_, a, _, (complete_eq_next _ _).mp (e ▸ h)⟩

theorem execSdParse_footprint {d : Byte} {s t : State} (h : execSdParse d s = .next t) :
    (s.pb.length ≠ 112 ∧ t = s.answer .unexpectedLength) ∨
    ∃ raw : Vector Byte 112, raw.toList = s.pb ∧
      t = (s.setSnap (parse s.cfg.layout raw)).answer .ok := by
  rcases execSdParse_cases d s with ⟨hlen, e⟩ | ⟨raw, hraw, e⟩
  · exact .inl ⟨hlen, (raise_eq_next _ _ _).mp (e ▸ h)⟩
  · exact .inr ⟨raw, hraw, (complete_eq_next _ _).mp (e ▸ h)⟩

theorem receiveFrame_footprint {bytes : List Byte} {s t : State}
    (h : receiveFrame bytes s = .next t) :
    ∃ b a f p c, t = ((((s.setFb b).setCrc a).setFrame f).setPb p).answer c :=
  ⟨_, decodeFb_writes h⟩

/-- Every instruction keeps to its footprint. -/
theorem exec_footprint {i : Instr} {s t : State} (h : exec i s = .next t) : Footprint s t i :=
  match i with
  | .nop _ => (Host.Outcome.next.inj h).symm
  | .crcInit _ | .crcByte _ => ⟨_, (complete_eq_next _ _).mp h⟩
  | .pbClr _ | .fbClr _ => ⟨[], .ok, (complete_eq_next _ _).mp h⟩
  | .pbPush _ => execPbPush_footprint h
  | .fbPush _ => execFbPush_footprint h
  | .fcEnc _ => execFcEnc_footprint h
  | .fcDec _ => decodeFb_writes h
  | .sdParse d => execSdParse_footprint (d := d) h
  | .reservedA _ | .reservedB _ | .reservedC _ | .reservedD _ | .reservedE _ | .reservedF _ =>
    (raise_eq_next _ _ _).mp h
  | .cmdQuery _ _ _ | .cmdControl _ _ _ | .cmdCounter _ _ _ => receiveFrame_footprint h

/-- Settles O11: the blank cells of the table in 10_state.md section 10, read off the footprints. -/
theorem operationsWriteOnlyTheirState : Obligations.OperationsWriteOnlyTheirState := by
  intro i s t h
  have hf := exec_footprint h
  cases i with
  | nop => obtain rfl := hf; simp
  | crcInit | crcByte => obtain ⟨_, rfl⟩ := hf; simp [Instr.mayWriteCrc]
  | pbClr | pbPush => obtain ⟨_, _, rfl⟩ := hf; simp [Instr.mayWritePb]
  | fbClr | fbPush => obtain ⟨_, _, rfl⟩ := hf; simp [Instr.mayWriteFb]
  | fcEnc => obtain ⟨_, _, _, rfl⟩ := hf; simp [Instr.mayWriteCrc, Instr.mayWriteFb]
  | fcDec =>
    obtain ⟨_, _, _, _, rfl⟩ := hf
    simp [Instr.mayWriteCrc, Instr.mayWritePb, Instr.decodesFrame]
  | sdParse => obtain ⟨-, rfl⟩ | ⟨_, -, rfl⟩ := hf <;> simp
  | reservedA | reservedB | reservedC | reservedD | reservedE | reservedF => obtain rfl := hf; simp
  | cmdQuery | cmdControl | cmdCounter =>
    obtain ⟨_, _, _, _, _, rfl⟩ := hf
    simp [Instr.mayWriteCrc, Instr.mayWritePb, Instr.mayWriteFb, Instr.decodesFrame, Instr.isWire]

theorem exec_cfg {i : Instr} {s t : State} (h : exec i s = .next t) : t.cfg = s.cfg :=
  (operationsWriteOnlyTheirState i s t h).1

theorem exec_pb {i : Instr} {s t : State} (h : exec i s = .next t) (hi : i.mayWritePb = false) :
    t.pb = s.pb := by
  obtain ⟨-, -, -, -, -, hpb, -⟩ := operationsWriteOnlyTheirState i s t h
  exact hpb hi

theorem exec_fb {i : Instr} {s t : State} (h : exec i s = .next t) (hi : i.mayWriteFb = false) :
    t.fb = s.fb := by
  obtain ⟨-, -, -, -, -, -, hfb, -⟩ := operationsWriteOnlyTheirState i s t h
  exact hfb hi

theorem exec_frame {i : Instr} {s t : State} (h : exec i s = .next t) (hi : i.decodesFrame = false) :
    t.frame = s.frame := by
  obtain ⟨-, -, -, -, -, -, -, hframe, -⟩ := operationsWriteOnlyTheirState i s t h
  exact hframe hi

theorem exec_snap {i : Instr} {s t : State} (h : exec i s = .next t) (hi : ∀ d, i ≠ .sdParse d) :
    t.snap = s.snap := by
  obtain ⟨-, -, -, -, -, -, -, -, hsnap, -⟩ := operationsWriteOnlyTheirState i s t h
  exact hsnap hi

/-- A received frame touches neither the configuration nor the snapshot. -/
theorem receiveFrame_keeps {bytes : List Byte} {s t : State} (h : receiveFrame bytes s = .next t) :
    t.cfg = s.cfg ∧ t.snap = s.snap := by
  obtain ⟨_, _, _, _, _, rfl⟩ := receiveFrame_footprint h
  exact ⟨rfl, rfl⟩

/-- A read-port access touches no register and no buffer. -/
theorem readPort_keeps (ra : Addr) (s : State) :
    ∃ v n, readPort ra s = { s with rd := some v, draws := n } := by
  rcases readPort_cases ra s with ⟨v, -, e⟩ | ⟨-, e⟩
  · exact ⟨v, s.draws, e⟩
  · exact ⟨_, s.draws + 1, e⟩

/-! ### What a step can be -/

/-- A step does nothing, performs an instruction, receives bytes that are no wire command, reads, or
resets, according to the first thing the host has to do (70_reset_and_hazards.md R202, R205). -/
theorem step_cases {s t : State} (h : step s = .next t) :
    (s.inputs = [] ∧ t = s) ∨
    ∃ rest,
      (∃ e i, s.inputs = .present e :: rest ∧ decode e = .ok i ∧
        exec i (s.setInputs rest) = .next t) ∨
      (∃ bytes r, s.inputs = .present (.frame bytes) :: rest ∧ decode (.frame bytes) = .error r ∧
        receiveFrame bytes (s.setInputs rest) = .next t) ∨
      (∃ ra, s.inputs = .read ra :: rest ∧ t = readPort ra (s.setInputs rest)) ∨
      (s.inputs = .reset :: rest ∧ t = (s.setInputs rest).resetInput) := by
  unfold step serveNext at h
  match hs : s.inputs with
  | [] =>
    rw [hs] at h
    exact .inl ⟨rfl, (Host.Outcome.next.inj h).symm⟩
  | .present (.request w) :: rest =>
    rw [hs] at h
    exact .inr ⟨rest, .inl ⟨.request w, _, rfl, rfl, h⟩⟩
  | .present (.frame bytes) :: rest =>
    simp only [hs, serve, serveEncoded] at h
    cases hd : decodeFrame bytes with
    | ok i => exact .inr ⟨rest, .inl ⟨.frame bytes, i, rfl, hd, by simpa only [hd] using h⟩⟩
    | error r => exact .inr ⟨rest, .inr (.inl ⟨bytes, r, rfl, hd, by simpa only [hd] using h⟩)⟩
  | .read ra :: rest =>
    rw [hs] at h
    exact .inr ⟨rest, .inr (.inr (.inl ⟨ra, rfl, (Host.Outcome.next.inj h).symm⟩))⟩
  | .reset :: rest =>
    rw [hs] at h
    exact .inr ⟨rest, .inr (.inr (.inr ⟨rfl, (Host.Outcome.next.inj h).symm⟩))⟩

/-- Settles O10: none of the things a step can be touches the configuration. -/
theorem configurationIsNeverWritten : Obligations.ConfigurationIsNeverWritten := by
  intro s t h
  rcases step_cases h with ⟨-, rfl⟩ | ⟨rest, ⟨e, i, -, -, he⟩ | ⟨bytes, r, -, -, he⟩ | ⟨ra, -, rfl⟩ | ⟨-, rfl⟩⟩
  · rfl
  · exact exec_cfg (s := s.setInputs rest) he
  · exact (receiveFrame_keeps (s := s.setInputs rest) he).1
  · obtain ⟨v, n, e⟩ := readPort_keeps ra (s.setInputs rest)
    rw [e]; rfl
  · rfl

/-! ### The response and the frame flags -/

/-- Settles O12: every footprint but that of `NOP` ends in an answer, which writes `ERR` and the
response alike. -/
theorem errHoldsTheResponse : Obligations.ErrHoldsTheResponse := by
  intro i s t h
  have hf := exec_footprint h
  cases i with
  | nop => obtain rfl := hf; exact ⟨.ok, by simp⟩
  | crcInit | crcByte => obtain ⟨_, rfl⟩ := hf; exact ⟨.ok, by simp⟩
  | pbClr | pbPush | fbClr | fbPush => obtain ⟨_, c, rfl⟩ := hf; exact ⟨c, by simp⟩
  | fcEnc => obtain ⟨_, _, c, rfl⟩ := hf; exact ⟨c, by simp⟩
  | fcDec => obtain ⟨_, _, _, c, rfl⟩ := hf; exact ⟨c, by simp⟩
  | sdParse =>
    obtain ⟨-, rfl⟩ | ⟨_, -, rfl⟩ := hf
    · exact ⟨.unexpectedLength, by simp⟩
    · exact ⟨.ok, by simp⟩
  | reservedA | reservedB | reservedC | reservedD | reservedE | reservedF =>
    obtain rfl := hf; exact ⟨.illegalOp, by simp⟩
  | cmdQuery | cmdControl | cmdCounter => obtain ⟨_, _, _, _, c, rfl⟩ := hf; exact ⟨c, by simp⟩

/-- Settles O13: the frame registers carry both flags, so an instruction that does not decode keeps them,
and a decoding leaves a record exactly when it answers OK. -/
theorem frameFlagsAreWrittenByDecoding : Obligations.FrameFlagsAreWrittenByDecoding := by
  refine ⟨fun i s t h hi => ?_, fun d s t h => ?_⟩
  · simp [State.frValid, State.frExcess, exec_frame h hi]
  · rcases decodeFb_outcome h with ⟨a, c, hc, rfl⟩ | ⟨a, f, -, -, hexcess, rfl⟩
    · simp [State.frValid, State.frExcess, hc]
    · simp [State.frValid, State.frExcess, hexcess]

end Sys2Proof.Machine
end

section
/-! PROOFS. The invariant: it holds after reset and every step keeps it; what follows for the snapshot. -/

namespace Sys2Proof.Machine

/-! ### The fill counts -/

theorem State.BuffersFit.congr {s t : State} (hs : s.BuffersFit) (hcfg : t.cfg = s.cfg)
    (hpb : t.pb = s.pb) (hfb : t.fb = s.fb) : t.BuffersFit :=
  ⟨hpb ▸ hs.pb_le, hfb ▸ hcfg ▸ hs.fb_le⟩

/-- Every instruction keeps the fill counts in range: the ones that write a buffer by their own bound, the
others by their frame. -/
theorem exec_fits {i : Instr} {s t : State} (hs : s.BuffersFit) (h : exec i s = .next t) :
    t.BuffersFit := by
  cases i with
  | pbPush d => exact execPbPush_fits d s t hs h
  | fbPush d => exact execFbPush_fits d s t hs h
  | fcEnc c => exact execFcEnc_fits c s t hs h
  | fcDec => exact decodeFb_fits s t hs h
  | cmdQuery | cmdControl | cmdCounter => exact receiveFrame_fits _ s t hs h
  | pbClr =>
    obtain rfl := (complete_eq_next _ _).mp h
    exact ⟨Nat.zero_le _, hs.fb_le⟩
  | fbClr =>
    obtain rfl := (complete_eq_next _ _).mp h
    exact ⟨hs.pb_le, Nat.zero_le _⟩
  | nop | crcInit | crcByte | sdParse | reservedA | reservedB | reservedC | reservedD | reservedE
  | reservedF => exact hs.congr (exec_cfg h) (exec_pb h rfl) (exec_fb h rfl)

/-! ### The invariant -/

/-- The invariant speaks of the frame registers and the snapshot only beside the fill counts. -/
theorem State.Inv.congr {s t : State} (hs : s.Inv) (ht : t.BuffersFit) (hcfg : t.cfg = s.cfg)
    (hframe : t.frame = s.frame) (hsnap : t.snap = s.snap) : t.Inv where
  toBuffersFit := ht
  frame_supported := hframe ▸ hs.frame_supported
  frame_len := hframe ▸ hcfg ▸ hs.frame_len
  snap_parsed := hsnap ▸ hcfg ▸ hs.snap_parsed

/-- A frame that stands whole in `FB` declares at most `MAXPAY` bytes, since `FB` holds `MAXPAY + 4`
(41_frame_codec.md R114). -/
theorem len_le_maxPay_of_fits {s : State} {l : Nat} (hs : s.BuffersFit) (hl : l + 4 ≤ s.fb.length) :
    l ≤ s.cfg.maxPay := by
  have hfb : s.fb.length ≤ s.cfg.maxPay + 4 := hs.fb_le
  omega

theorem decodeFb_inv {s t : State} (hs : s.Inv) (h : decodeFb s = .next t) : t.Inv := by
  have ht := decodeFb_fits s t hs.toBuffersFit h
  rcases decodeFb_outcome h with ⟨a, c, -, rfl⟩ | ⟨a, f, hcmd, hlen, -, rfl⟩
  · exact ⟨ht, by simp, by simp, hs.snap_parsed⟩
  · refine ⟨ht, ?_, ?_, hs.snap_parsed⟩
    · rintro g ⟨⟩; exact hcmd
    · rintro g ⟨⟩; exact len_le_maxPay_of_fits (s := s) hs.toBuffersFit hlen

theorem receiveFrame_inv {bytes : List Byte} {s t : State} (hs : s.Inv)
    (h : receiveFrame bytes s = .next t) : t.Inv := by
  have hfits : (s.setFb (bytes.take (fbCap s.cfg))).BuffersFit :=
    ⟨hs.pb_le, List.length_take_le _ _⟩
  exact decodeFb_inv (hs.congr hfits rfl rfl rfl) h

theorem execSdParse_inv {d : Byte} {s t : State} (hs : s.Inv) (h : exec (.sdParse d) s = .next t) :
    t.Inv := by
  have ht := exec_fits hs.toBuffersFit h
  rcases execSdParse_footprint (d := d) h with ⟨-, rfl⟩ | ⟨raw, -, rfl⟩
  · exact hs.congr ht rfl rfl rfl
  · refine ⟨ht, hs.frame_supported, hs.frame_len, ?_⟩
    rintro n ⟨⟩; rfl

/-- Every instruction keeps the invariant. -/
theorem exec_inv {i : Instr} {s t : State} (hs : s.Inv) (h : exec i s = .next t) : t.Inv := by
  cases i with
  | fcDec => exact decodeFb_inv hs h
  | cmdQuery | cmdControl | cmdCounter => exact receiveFrame_inv hs h
  | sdParse => exact execSdParse_inv hs h
  | nop | crcInit | crcByte | pbClr | pbPush | fbClr | fbPush | fcEnc | reservedA | reservedB
  | reservedC | reservedD | reservedE | reservedF =>
    exact hs.congr (exec_fits hs.toBuffersFit h) (exec_cfg h) (exec_frame h rfl)
      (exec_snap h (by simp))

theorem State.setInputs_inv {s : State} (hs : s.Inv) (l : List HostInput) : (s.setInputs l).Inv :=
  hs.congr ⟨hs.pb_le, hs.fb_le⟩ rfl rfl rfl

theorem readPort_inv {s : State} (hs : s.Inv) (ra : Addr) : (readPort ra s).Inv := by
  obtain ⟨v, n, e⟩ := readPort_keeps ra s
  rw [e]
  exact hs.congr ⟨hs.pb_le, hs.fb_le⟩ rfl rfl rfl

theorem State.resetOf_inv (c : Cfg) : (State.resetOf c).Inv :=
  ⟨State.buffersFit_resetOf c, by simp, by simp, by simp⟩

theorem State.resetInput_inv (s : State) : s.resetInput.Inv :=
  (State.resetOf_inv s.cfg).congr ⟨Nat.zero_le _, Nat.zero_le _⟩ rfl rfl rfl

/-- Settles O7: each of the things a step can be keeps the invariant. -/
theorem stepKeepsInvariant : Obligations.StepKeepsInvariant := by
  intro s t hs h
  rcases step_cases h with
    ⟨-, rfl⟩ | ⟨rest, ⟨e, i, -, -, he⟩ | ⟨bytes, r, -, -, he⟩ | ⟨ra, -, rfl⟩ | ⟨-, rfl⟩⟩
  · exact hs
  · exact exec_inv (State.setInputs_inv hs rest) he
  · exact receiveFrame_inv (State.setInputs_inv hs rest) he
  · exact readPort_inv (State.setInputs_inv hs rest) ra
  · exact State.resetInput_inv _

/-- Settles O8: after reset the buffers are empty and no record is held. -/
theorem resetSatisfiesInvariant : Obligations.ResetSatisfiesInvariant :=
  ⟨State.resetOf_inv, State.resetOf_inv _⟩

/-! ### The snapshot -/

theorem wireCommand_isWire {c a b : Byte} {p : List Byte} {i : Instr}
    (h : wireCommand c p a b = .ok i) : i.isWire = true := by
  unfold wireCommand at h
  split at h
  · cases h; rfl
  · split at h
    · cases h; rfl
    · split at h
      · cases h; rfl
      · cases h

theorem decodeFrame_isWire {bytes : List Byte} {i : Instr} (h : decodeFrame bytes = .ok i) :
    i.isWire = true := by
  unfold decodeFrame at h
  split at h
  · split at h
    · cases h
    · split at h
      · cases h
      · split at h
        · cases h
        · exact wireCommand_isWire h
  · cases h

theorem decodeRequest_of_reqOp_nine {w : Request} (h : reqOp w = 0x9) :
    decodeRequest w = .sdParse (reqData w) := by
  simp [decodeRequest, h]

theorem reqOp_eq_nine_of_decodeRequest {w : Request} {d : Byte} (h : decodeRequest w = .sdParse d) :
    reqOp w = 0x9 := by
  unfold decodeRequest at h
  split at h <;> cases h
  exact BitVec.eq_of_toNat_eq ‹_›

/-- Only a request word with operation code 9 is an `SD.PARSE` (30_encoding.md R69). -/
theorem decode_eq_sdParse {e : Encoded} {d : Byte} (h : decode e = .ok (.sdParse d)) :
    ∃ w, e = .request w ∧ reqOp w = 0x9 := by
  cases e with
  | request w => exact ⟨w, rfl, reqOp_eq_nine_of_decodeRequest (Except.ok.inj h)⟩
  | frame bytes => cases decodeFrame_isWire h

/-- A step that takes the reset input is one, and nothing else (70_reset_and_hazards.md R200). -/
theorem step_reset {s : State} {rest : List HostInput} (hin : s.inputs = .reset :: rest) :
    step s = .next (s.setInputs rest).resetInput := by
  simp [step, serveNext, hin, serve]

theorem step_request {s : State} {w : Request} {rest : List HostInput}
    (hin : s.inputs = .present (.request w) :: rest) :
    step s = exec (decodeRequest w) (s.setInputs rest) := by
  simp [step, serveNext, hin, serve, serveEncoded]

theorem step_read {s : State} {ra : Addr} {rest : List HostInput} (hin : s.inputs = .read ra :: rest) :
    step s = .next (readPort ra (s.setInputs rest)) := by
  simp [step, serveNext, hin, serve]

/-- `SD.PARSE` of a block writes its decoding. -/
theorem exec_sdParse_of_block {d : Byte} {s : State} {raw : Vector Byte 112} (hraw : raw.toList = s.pb) :
    exec (.sdParse d) s = complete (s.setSnap (parse s.cfg.layout raw)) := by
  show execSdParse d s = _
  simp [execSdParse, (asBlock_eq_some _ _).mpr hraw]

/-- A step that is neither a reset nor an `SD.PARSE` of 112 bytes keeps the snapshot. -/
theorem step_keeps_snap {s t : State} (h : step s = .next t) (hreset : ∀ rest, s.inputs ≠ .reset :: rest)
    (hparse : ∀ (w : Request) (rest : List HostInput),
      s.inputs = .present (.request w) :: rest → reqOp w = 0x9 → s.pb.length ≠ 112) :
    t.snap = s.snap := by
  rcases step_cases h with
    ⟨-, rfl⟩ | ⟨rest, ⟨e, i, hin, hd, he⟩ | ⟨bytes, r, -, -, he⟩ | ⟨ra, -, rfl⟩ | ⟨hin, -⟩⟩
  · rfl
  · by_cases hi : ∃ d, i = .sdParse d
    · obtain ⟨d, rfl⟩ := hi
      obtain ⟨w, rfl, hw⟩ := decode_eq_sdParse hd
      rcases execSdParse_footprint (d := d) he with ⟨-, rfl⟩ | ⟨raw, hraw, -⟩
      · rfl
      · have hlen : s.pb.length = 112 := by
          rw [← State.setInputs_pb s rest, ← hraw, Vector.length_toList]
        exact absurd hlen (hparse w rest hin hw)
    · exact exec_snap (s := s.setInputs rest) he (not_exists.mp hi)
  · exact (receiveFrame_keeps (s := s.setInputs rest) he).2
  · obtain ⟨v, n, e⟩ := readPort_keeps ra (s.setInputs rest)
    rw [e]; rfl
  · exact absurd hin (hreset rest)

/-- Settles O14: `SNAP_VALID` says whether there is a snapshot, so it goes with it. -/
theorem snapshotChangesOnlyAsAWhole : Obligations.SnapshotChangesOnlyAsAWhole := by
  intro s t h
  refine ⟨fun rest hin => ?_, fun w rest raw hin hw hraw => ?_, fun hreset hparse => ?_⟩
  · rw [step_reset hin] at h
    cases h
    exact ⟨rfl, rfl⟩
  · rw [step_request hin, decodeRequest_of_reqOp_nine hw,
      exec_sdParse_of_block (s := s.setInputs rest) hraw, complete_eq_next] at h
    subst h
    exact ⟨rfl, rfl⟩
  · have hsnap := step_keeps_snap h hreset hparse
    exact ⟨hsnap, by rw [State.snapValid, hsnap, State.snapValid]⟩

end Sys2Proof.Machine
end

section
/-! PROOFS. The read port: where each address of the read map lies, which locations have no value, what
reset leaves without one, and the bits of the words read. -/

namespace Sys2Proof.Machine

/-! ### Where an address lies (20_memory.md R42) -/

theorem locate_pb {c : Cfg} {ra : Addr} (h : ra.toNat < 0x100) : locate c ra = .pb ra.toNat :=
  if_pos h

theorem locate_fb {c : Cfg} {ra : Addr} (h : 0x100 ≤ ra.toNat) (h' : ra.toNat < 0x100 + fbCap c) :
    locate c ra = .fb (ra.toNat - 0x100) := by
  rw [locate, if_neg (by omega), if_pos h']

theorem locate_raw {c : Cfg} {ra : Addr} (h : 0x300 ≤ ra.toNat ∧ ra.toNat < 0x370) :
    locate c ra = .raw ⟨ra.toNat - 0x300, by omega⟩ := by
  have hc := fbCap_le c
  rw [locate, if_neg (by omega), if_neg (by omega), dif_pos h]

/-- Everything outside the three arrays is looked up among the registers. -/
theorem locate_outside_arrays {c : Cfg} {ra : Addr} (h : 0x100 + fbCap c ≤ ra.toNat)
    (h' : ¬ (0x300 ≤ ra.toNat ∧ ra.toNat < 0x370)) : locate c ra = locateRegister ra.toNat := by
  rw [locate, if_neg (by omega), if_neg (by omega), dif_neg h']

theorem State.valueAt_register (s : State) {ra : Addr} (h : 0x400 ≤ ra.toNat) :
    s.valueAt ra = s.valueOf (locateRegister ra.toNat) := by
  have hc := fbCap_le s.cfg
  rw [State.valueAt, locate_outside_arrays (by omega) (by omega)]

/-- The three sensor words stand at 0x410 upwards. -/
theorem State.valueAt_sens (s : State) (i : Fin 3) :
    s.valueAt (BitVec.ofNat 12 (0x410 + i.val)) = s.valueOf (.sens i) := by
  match i with
  | 0 => exact s.valueAt_register (ra := 0x410) (by decide)
  | 1 => exact s.valueAt_register (ra := 0x411) (by decide)
  | 2 => exact s.valueAt_register (ra := 0x412) (by decide)

/-! ### Locations without a value (10_state.md R29) -/

theorem State.frValid_eq_false (s : State) : s.frValid = false ↔ s.frame = none := by
  simp [State.frValid]

theorem State.snapValid_eq_false (s : State) : s.snapValid = false ↔ s.snap = none := by
  simp [State.snapValid]

theorem State.valueOf_pb_eq_none (s : State) (k : Nat) :
    s.valueOf (.pb k) = none ↔ s.pb.length ≤ k := by
  simp [State.valueOf]

theorem State.valueOf_fb_eq_none (s : State) (k : Nat) :
    s.valueOf (.fb k) = none ↔ s.fb.length ≤ k := by
  simp [State.valueOf]

theorem State.valueOf_raw_eq_none (s : State) (k : Fin 112) :
    s.valueOf (.raw k) = none ↔ s.snapValid = false := by
  simp [State.valueOf, State.snapValid]

/-- Among the registers, those of a frame and those of a snapshot can be without a value. -/
theorem State.valueOf_locateRegister_eq_none (s : State) (n : Nat) :
    s.valueOf (locateRegister n) = none ↔
      (0x405 ≤ n ∧ n < 0x408 ∧ s.frValid = false) ∨
      (((0x408 ≤ n ∧ n < 0x40A) ∨ (0x410 ≤ n ∧ n < 0x413) ∨ (0x418 ≤ n ∧ n < 0x41C)) ∧
        s.snapValid = false) := by
  rw [s.frValid_eq_false, s.snapValid_eq_false]
  unfold locateRegister
  split
  case h_18 =>
    refine iff_of_false (by simp [State.valueOf]) ?_
    rintro (⟨h, h', -⟩ | ⟨h, -⟩) <;> grind
  all_goals simp [State.valueOf]

/-- The locations without a value, over the whole read map. -/
theorem State.valueAt_eq_none_iff (s : State) (ra : Addr) :
    s.valueAt ra = none ↔
      (ra.toNat < 0x100 ∧ s.pb.length ≤ ra.toNat) ∨
      (0x100 ≤ ra.toNat ∧ ra.toNat < 0x100 + fbCap s.cfg ∧ s.fb.length ≤ ra.toNat - 0x100) ∨
      (0x405 ≤ ra.toNat ∧ ra.toNat < 0x408 ∧ s.frValid = false) ∨
      (((0x300 ≤ ra.toNat ∧ ra.toNat < 0x370) ∨ (0x408 ≤ ra.toNat ∧ ra.toNat < 0x40A) ∨
        (0x410 ≤ ra.toNat ∧ ra.toNat < 0x413) ∨ (0x418 ≤ ra.toNat ∧ ra.toNat < 0x41C)) ∧
        s.snapValid = false) := by
  have hc := fbCap_le s.cfg
  unfold State.valueAt
  by_cases hpb : ra.toNat < 0x100
  · rw [locate_pb hpb, s.valueOf_pb_eq_none]
    omega
  by_cases hfb : ra.toNat < 0x100 + fbCap s.cfg
  · rw [locate_fb (by omega) hfb, s.valueOf_fb_eq_none]
    omega
  by_cases hraw : 0x300 ≤ ra.toNat ∧ ra.toNat < 0x370
  · rw [locate_raw hraw, s.valueOf_raw_eq_none]
    grind
  · rw [locate_outside_arrays (by omega) hraw, s.valueOf_locateRegister_eq_none]
    grind

/-- A read of a location without a value shows the next free value, of the location's width. -/
theorem step_read_valueless {s : State} {ra : Addr} {rest : List HostInput}
    (hin : s.inputs = .read ra :: rest) (hnone : s.valueAt ra = none) :
    step s = .next { s with
      inputs := rest
      rd := some (freeOfWidth (locate s.cfg ra).width s.draws)
      draws := s.draws + 1 } := by
  rw [step_read hin]
  rcases readPort_cases ra (s.setInputs rest) with ⟨v, hv, -⟩ | ⟨-, e⟩
  · have hv : s.valueAt ra = some v := hv
    rw [hnone] at hv
    cases hv
  · rw [e]; rfl

/-- Settles O20: the valueless locations are found by the ranges of the read map, and the width of the
free value is the width column of its row. -/
theorem valuelessLocationsReadFreely : Obligations.ValuelessLocationsReadFreely := by
  intro s ra
  refine ⟨s.valueAt_eq_none_iff ra, fun hnone rest w hin hw => ?_⟩
  rw [step_read_valueless hin hnone, locate_width s.cfg ra w hw]
  rfl

/-- Settles O24: with empty buffers and no records, no address of the listed ranges has a value. -/
theorem resetInputResets : Obligations.ResetInputResets := by
  intro s rest hin
  have hnone (ra : Addr)
      (h : ra.toNat < 0x100 + fbCap s.cfg ∨ (0x300 ≤ ra.toNat ∧ ra.toNat < 0x370) ∨
        (0x405 ≤ ra.toNat ∧ ra.toNat < 0x40A) ∨ (0x410 ≤ ra.toNat ∧ ra.toNat < 0x413) ∨
        (0x418 ≤ ra.toNat ∧ ra.toNat < 0x41C)) :
      (s.setInputs rest).resetInput.valueAt ra = none := by
    rw [State.valueAt_eq_none_iff]
    simp [State.frValid, State.snapValid]
    omega
  have hstatus : (s.setInputs rest).resetInput.status = 0 := by
    show BitVec.ofBool false ++ BitVec.ofBool false ++ BitVec.ofBool false ++ BitVec.ofBool false
      ++ Cause.ok.code = 0
    decide
  refine ⟨_, step_reset hin, rfl, rfl, rfl, hstatus, rfl, fun ra h => ?_, fun ra h h' => ?_,
    fun ra h h' => ?_, fun ra h h' => ?_, fun ra h h' => ?_⟩
  all_goals exact hnone ra (by omega)

/-! ### The bits of the words read -/

/-- The bits of a word read are those of the location, and 0 above its width. -/
theorem getLsbD_setWidth_32 {n : Nat} (v : BitVec n) {k : Nat} (h : k < 32) :
    (v.setWidth 32).getLsbD k = v.getLsbD k := by
  simp [h]

theorem getLsbD_setWidth_32_of_ge {n : Nat} (v : BitVec n) {k : Nat} (h : n ≤ k) :
    (v.setWidth 32).getLsbD k = false := by
  simp [BitVec.getLsbD_of_ge _ _ h]

theorem State.getLsbD_status (s : State) (k : Nat) :
    s.status.getLsbD k = (BitVec.ofBool s.snapBoor ++ BitVec.ofBool s.snapValid
      ++ BitVec.ofBool s.frExcess ++ BitVec.ofBool s.frValid ++ s.err.code).getLsbD k := rfl

theorem State.getLsbD_status_flags (s : State) :
    s.status.getLsbD 4 = s.frValid ∧ s.status.getLsbD 5 = s.frExcess ∧
    s.status.getLsbD 6 = s.snapValid ∧ s.status.getLsbD 7 = s.snapBoor := by
  simp only [State.getLsbD_status, BitVec.getLsbD_append, -Nat.reduceAdd]
  simp

theorem State.frExcess_iff (s : State) :
    s.frExcess = true ↔ ∃ f, s.frame = some f ∧ f.excess = true := by
  unfold State.frExcess
  cases s.frame <;> simp

theorem Snapshot.anyBoor_iff (n : Snapshot) :
    n.anyBoor = true ↔ ∃ i : Fin 3, (n.sensors.get i).boor = true := by
  simp [Snapshot.anyBoor, Fin.exists_fin_succ, or_assoc]

theorem State.snapBoor_iff (s : State) :
    s.snapBoor = true ↔
      ∃ n, s.snap = some n ∧ ∃ i : Fin 3, (n.sensors.get i).boor = true := by
  unfold State.snapBoor
  cases s.snap <;> simp [Snapshot.anyBoor_iff]

/-- Settles O21: `STATUS` is its fields side by side, read zero-extended. -/
theorem statusBits : Obligations.StatusBits := by
  refine ⟨by decide, fun s => ⟨s.status.setWidth 32, s.valueAt_register (ra := 0x404) (by decide), ?_⟩⟩
  obtain ⟨h4, h5, h6, h7⟩ := s.getLsbD_status_flags
  refine ⟨?_, ?_, ?_, ?_, ?_, fun k hk => ?_⟩
  · rw [BitVec.extractLsb'_setWidth_of_le (by decide)]
    exact BitVec.extractLsb'_append_eq_right
  · rw [getLsbD_setWidth_32 _ (by decide), h4, State.frValid]
  · rw [getLsbD_setWidth_32 _ (by decide), h5, s.frExcess_iff]
  · rw [getLsbD_setWidth_32 _ (by decide), h6, State.snapValid]
  · rw [getLsbD_setWidth_32 _ (by decide), h7, s.snapBoor_iff]
  · exact getLsbD_setWidth_32_of_ge _ hk

/-! ### The snapshot words -/

theorem Snapshot.getLsbD_flags (n : Snapshot) (k : Nat) :
    n.flags.getLsbD k = (BitVec.ofBool (n.sensors.get 2).boor ++ BitVec.ofBool (n.sensors.get 1).boor
      ++ BitVec.ofBool (n.sensors.get 0).boor ++ 0#1 ++ BitVec.ofBool n.autoClose
      ++ BitVec.ofBool n.dryMode ++ BitVec.ofBool n.valveOpen).getLsbD k := rfl

theorem Snapshot.getLsbD_flags_low (n : Snapshot) :
    n.flags.getLsbD 0 = n.valveOpen ∧ n.flags.getLsbD 1 = n.dryMode ∧
    n.flags.getLsbD 2 = n.autoClose ∧ n.flags.getLsbD 3 = false := by
  simp only [Snapshot.getLsbD_flags, BitVec.getLsbD_append, -Nat.reduceAdd]
  simp

theorem Snapshot.getLsbD_flags_boor (n : Snapshot) (i : Fin 3) :
    n.flags.getLsbD (4 + i.val) = (n.sensors.get i).boor := by
  simp only [Snapshot.getLsbD_flags, BitVec.getLsbD_append, -Nat.reduceAdd]
  match i with
  | 0 | 1 | 2 => simp

theorem LineMode.code_eq_ofBool (m : LineMode) : m.code = BitVec.ofBool (decide (m = .counter)) := by
  cases m <;> rfl

theorem Snapshot.getLsbD_lineModes (n : Snapshot) (k : Nat) :
    n.lineModes.getLsbD k = ((n.lines.get 3).mode.code ++ (n.lines.get 2).mode.code
      ++ (n.lines.get 1).mode.code ++ (n.lines.get 0).mode.code).getLsbD k := rfl

theorem Snapshot.getLsbD_lineModes_iff (n : Snapshot) (j : Fin 4) :
    n.lineModes.getLsbD j.val = true ↔ (n.lines.get j).mode = .counter := by
  simp only [Snapshot.getLsbD_lineModes, LineMode.code_eq_ofBool, BitVec.getLsbD_append, -Nat.reduceAdd]
  match j with
  | 0 | 1 | 2 | 3 => simp

/-- Settles O22: both words are their fields side by side, read zero-extended. -/
theorem snapshotFlagBits : Obligations.SnapshotFlagBits := by
  intro s n hs
  have hflags : s.valueAt 0x408 = some (n.flags.setWidth 32) := by
    rw [s.valueAt_register (by decide)]
    show s.snap.map _ = _
    rw [hs]; rfl
  have hmodes : s.valueAt 0x409 = some (n.lineModes.setWidth 32) := by
    rw [s.valueAt_register (by decide)]
    show s.snap.map _ = _
    rw [hs]; rfl
  obtain ⟨h0, h1, h2, h3⟩ := n.getLsbD_flags_low
  refine ⟨⟨_, hflags, ?_, ?_, ?_, ?_, fun i => ?_, fun k hk => ?_⟩, ⟨_, hmodes, fun j => ?_, fun k hk => ?_⟩⟩
  · rw [getLsbD_setWidth_32 _ (by decide), h0]
  · rw [getLsbD_setWidth_32 _ (by decide), h1]
  · rw [getLsbD_setWidth_32 _ (by decide), h2]
  · rw [getLsbD_setWidth_32 _ (by decide), h3]
  · rw [getLsbD_setWidth_32 _ (by omega), n.getLsbD_flags_boor]
  · exact getLsbD_setWidth_32_of_ge _ hk
  · rw [getLsbD_setWidth_32 _ (by omega), n.getLsbD_lineModes_iff]
  · exact getLsbD_setWidth_32_of_ge _ hk

theorem SensorReading.extractLsb'_word (r : SensorReading) :
    r.word.extractLsb' 0 2 = r.state.code ∧ r.word.extractLsb' 2 2 = r.signal.code ∧
    r.word.extractLsb' 4 4 = 0 ∧ r.word.extractLsb' 8 8 = r.batt := by
  have above_state {start len : Nat} (h : 2 ≤ start) : r.word.extractLsb' start len =
      (r.batt ++ 0#4 ++ r.signal.code).extractLsb' (start - 2) len :=
    BitVec.extractLsb'_append_eq_of_le h
  have above_signal {start len : Nat} (h : 4 ≤ start) : r.word.extractLsb' start len =
      (r.batt ++ 0#4).extractLsb' (start - 2 - 2) len :=
    (above_state (by omega)).trans (BitVec.extractLsb'_append_eq_of_le (by omega))
  exact ⟨BitVec.extractLsb'_append_eq_right,
    (above_state (by decide)).trans BitVec.extractLsb'_append_eq_right,
    (above_signal (by decide)).trans BitVec.extractLsb'_append_eq_right,
    (above_signal (by decide)).trans BitVec.extractLsb'_append_eq_left⟩

theorem SignalLevel.code_ne_one (l : SignalLevel) : l.code ≠ 0b01 := by
  cases l <;> decide

theorem batt_le (b : Byte) : (batt b).1.toNat ≤ 100 := by
  unfold batt battMax
  by_cases h : 100 < b.toInt.natAbs
  · simp [h]
  · simp only [h, if_false, BitVec.toNat_ofNat]
    omega

theorem parse_sensors_get (l : Layout) (raw : Vector Byte 112) (i : Fin 3) :
    (parse l raw).sensors.get i = parseSensor l raw i := by
  match i with
  | 0 | 1 | 2 => rfl

/-- Under the invariant every battery percentage is one `SD.PARSE` has clamped (42_state_decoder.md R132). -/
theorem State.Inv.batt_le {s : State} {n : Snapshot} (hs : s.Inv) (hn : s.snap = some n) (i : Fin 3) :
    (n.sensors.get i).batt.toNat ≤ 100 := by
  rw [hs.snap_parsed n hn, parse_sensors_get]
  exact Machine.batt_le _

/-- Settles O23: a sensor word is its fields side by side, read zero-extended. -/
theorem sensorWordBits : Obligations.SensorWordBits := by
  intro s n i hs hn
  have hword : s.valueAt (BitVec.ofNat 12 (0x410 + i.val)) =
      some ((n.sensors.get i).word.setWidth 32) := by
    rw [s.valueAt_sens, State.valueOf, hn]; rfl
  obtain ⟨hstate, hsignal, hzero, hbatt⟩ := (n.sensors.get i).extractLsb'_word
  have hfield {start len : Nat} (h : start + len ≤ 32) :
      ((n.sensors.get i).word.setWidth 32).extractLsb' start len =
        (n.sensors.get i).word.extractLsb' start len :=
    BitVec.extractLsb'_setWidth_of_le h
  have habove : ((n.sensors.get i).word.setWidth 32).extractLsb' 16 16 = 0 := by
    rw [hfield (by decide)]
    exact BitVec.eq_of_getLsbD_eq fun k hk => by simp
  refine ⟨_, hword, (hfield (by decide)).trans hstate, (hfield (by decide)).trans hsignal, ?_,
    (hfield (by decide)).trans hzero, (hfield (by decide)).trans hbatt, ?_, habove⟩
  · rw [hfield (by decide), hsignal]
    exact SignalLevel.code_ne_one _
  · rw [hfield (by decide), hbatt]
    exact hs.batt_le hn i

end Sys2Proof.Machine
end

section
/-! PROOFS. The memory of the block as cells, and what a read-port access returns: the value at its
address, 0 at an unmapped one, a free value of the location's width where there is none. -/

namespace Sys2Proof.Machine

/-! ### Memory as cells -/

/-- The three arrays are laid out from 0x000, 0x100 and 0x300. -/
theorem State.read_memory (s : State) (a : Nat) :
    Memory.read a s.memory =
      (s.pb[a]?.or (if 0x100 ≤ a then s.fb[a - 0x100]? else none)).or
        (if 0x300 ≤ a then s.rawBytes[a - 0x300]? else none) := by
  simp only [State.memory, Memory.read_append, Memory.read_cellsFrom, Nat.zero_le, if_true, Nat.sub_zero]

theorem State.rawBytes_getElem? (s : State) (k : Fin 112) :
    s.rawBytes[k.val]? = s.snap.map fun n => n.raw.get k := by
  unfold State.rawBytes
  cases s.snap with
  | none => rfl
  | some n => simp [Vector.get]

theorem State.BuffersFit.pb_getElem?_eq_none {s : State} (hs : s.BuffersFit) {a : Nat} (h : 256 ≤ a) :
    s.pb[a]? = none :=
  List.getElem?_eq_none (hs.pb_le.trans h)

theorem State.BuffersFit.fb_getElem?_eq_none {s : State} (hs : s.BuffersFit) {a : Nat}
    (h : fbCap s.cfg ≤ a) : s.fb[a]? = none :=
  List.getElem?_eq_none (hs.fb_le.trans h)

theorem State.read_memory_pb (s : State) {a : Nat} (h : a < 256) :
    Memory.read a s.memory = s.pb[a]? := by
  rw [s.read_memory, if_neg (by omega), if_neg (by omega), Option.or_none, Option.or_none]

theorem State.BuffersFit.read_memory_fb {s : State} (hs : s.BuffersFit) {a : Nat} (h : a < fbCap s.cfg) :
    Memory.read (0x100 + a) s.memory = s.fb[a]? := by
  have hc := fbCap_le s.cfg
  rw [s.read_memory, hs.pb_getElem?_eq_none (by omega), if_pos (by omega), if_neg (by omega),
    Option.none_or, Option.or_none, Nat.add_sub_cancel_left]

theorem State.BuffersFit.read_memory_raw {s : State} (hs : s.BuffersFit) (k : Fin 112) :
    Memory.read (0x300 + k.val) s.memory = s.snap.map fun n => n.raw.get k := by
  have hc := fbCap_le s.cfg
  rw [s.read_memory, hs.pb_getElem?_eq_none (by omega), if_pos (by omega),
    hs.fb_getElem?_eq_none (by omega), if_pos (by omega), Option.none_or, Option.none_or,
    Nat.add_sub_cancel_left, s.rawBytes_getElem?]

theorem State.BuffersFit.read_memory_outside {s : State} (hs : s.BuffersFit) {a : Nat}
    (h : (0x100 + fbCap s.cfg ≤ a ∧ a < 0x300) ∨ 0x370 ≤ a) : Memory.read a s.memory = none := by
  have hc := fbCap_le s.cfg
  have hlen := s.rawBytes_length_le
  have hraw : (if 0x300 ≤ a then s.rawBytes[a - 0x300]? else none) = none := by
    split
    · exact List.getElem?_eq_none (by omega)
    · rfl
  rw [s.read_memory, hs.pb_getElem?_eq_none (by omega), if_pos (by omega),
    hs.fb_getElem?_eq_none (by omega), hraw]
  rfl

/-- Settles O9: a step keeps the invariant, so the buffers of the state it leads to fit, and the three
arrays of such a state do not overlap. -/
theorem stepKeepsMemoryCanonical : Obligations.StepKeepsMemoryCanonical := by
  intro s t hs h
  have ht : t.BuffersFit := (stepKeepsInvariant s t hs h).toBuffersFit
  exact ⟨t.memory_wf ht, fun _ => t.read_memory_pb, fun _ => ht.read_memory_fb,
    ht.read_memory_raw, fun _ => ht.read_memory_outside⟩

/-! ### What a read returns -/

/-- A read of a location with a value returns it and does nothing else (20_memory.md R41). -/
theorem step_read_value {s : State} {ra : Addr} {v : Word} {rest : List HostInput}
    (hin : s.inputs = .read ra :: rest) (hv : s.valueAt ra = some v) :
    step s = .next { s with inputs := rest, rd := some v } := by
  rw [step_read hin]
  rcases readPort_cases ra (s.setInputs rest) with ⟨u, hu, e⟩ | ⟨hnone, -⟩
  · obtain rfl : v = u := Option.some.inj (hv.symm.trans hu)
    rw [e]; rfl
  · cases hv.symm.trans hnone

/-- The read map does not look at the host's list, the read data or the count of free values. -/
theorem State.valueAt_of_read (s : State) (l : List HostInput) (v : Option Word) (n : Nat) (rb : Addr) :
    State.valueAt { s with inputs := l, rd := v, draws := n } rb = s.valueAt rb := rfl

/-- Settles O17: with or without a value at the address, only the read data, the host's list and the
count of free values are written, and the read map looks at none of them. -/
theorem readsHaveNoSideEffect : Obligations.ReadsHaveNoSideEffect := by
  intro s ra rest hin
  cases hv : s.valueAt ra with
  | none =>
    exact ⟨_, _, _, step_read_valueless hin hv, rfl, nofun, s.valueAt_of_read _ _ _⟩
  | some v =>
    exact ⟨_, v, s.draws, step_read_value hin hv, rfl, fun _ => Option.some.inj,
      s.valueAt_of_read _ _ _⟩

/-! ### Unmapped addresses -/

/-- Between the rows of the register table there is no register (20_memory.md R42). -/
theorem locateRegister_eq_unmapped {n : Nat}
    (h : n < 0x400 ∨ (0x40A ≤ n ∧ n < 0x410) ∨ (0x413 ≤ n ∧ n < 0x418) ∨ 0x41C ≤ n) :
    locateRegister n = .unmapped := by
  unfold locateRegister
  split
  case h_18 => rfl
  all_goals omega

/-- Settles O18: an unmapped address is outside the arrays and no register, and its value is 0. -/
theorem unmappedAddressesReadZero : Obligations.UnmappedAddressesReadZero := by
  intro s ra rest h hin
  have hc := fbCap_le s.cfg
  have hloc : locate s.cfg ra = .unmapped := by
    rw [locate_outside_arrays (by omega) (by omega), locateRegister_eq_unmapped (by omega)]
  exact step_read_value hin (by rw [State.valueAt, hloc, State.valueOf])

/-! ### The rows of the read map -/

theorem toNat_ofNat_twelve {n : Nat} (h : n < 4096) : (BitVec.ofNat 12 n).toNat = n := by
  rw [BitVec.toNat_ofNat, Nat.mod_eq_of_lt h]

theorem State.valueAt_pb (s : State) {a : Nat} (h : a < 256) :
    s.valueAt (BitVec.ofNat 12 a) = s.pb[a]?.map (·.setWidth 32) := by
  have ha : (BitVec.ofNat 12 a).toNat = a := toNat_ofNat_twelve (by omega)
  rw [State.valueAt, locate_pb (by omega), ha, State.valueOf]

theorem State.valueAt_fb (s : State) {a : Nat} (h : a < fbCap s.cfg) :
    s.valueAt (BitVec.ofNat 12 (0x100 + a)) = s.fb[a]?.map (·.setWidth 32) := by
  have hc := fbCap_le s.cfg
  have ha : (BitVec.ofNat 12 (0x100 + a)).toNat = 0x100 + a := toNat_ofNat_twelve (by omega)
  rw [State.valueAt, locate_fb (by omega) (by omega), ha, Nat.add_sub_cancel_left, State.valueOf]

theorem State.valueAt_raw (s : State) (k : Fin 112) :
    s.valueAt (BitVec.ofNat 12 (0x300 + k.val)) = s.valueOf (.raw k) := by
  have ha : (BitVec.ofNat 12 (0x300 + k.val)).toNat = 0x300 + k.val := toNat_ofNat_twelve (by omega)
  have hloc : locate s.cfg (BitVec.ofNat 12 (0x300 + k.val)) = .raw k :=
    (locate_raw (by omega)).trans (congrArg Loc.raw (Fin.ext (by simp only [ha, Nat.add_sub_cancel_left])))
  rw [State.valueAt, hloc]

/-- The four counter values stand at 0x418 upwards. -/
theorem State.valueAt_lValue (s : State) (j : Fin 4) :
    s.valueAt (BitVec.ofNat 12 (0x418 + j.val)) = s.valueOf (.lValue j) := by
  match j with
  | 0 => exact s.valueAt_register (ra := 0x418) (by decide)
  | 1 => exact s.valueAt_register (ra := 0x419) (by decide)
  | 2 => exact s.valueAt_register (ra := 0x41A) (by decide)
  | 3 => exact s.valueAt_register (ra := 0x41B) (by decide)

/-- A fill count in range fits its 9 bits, so it is read as the number it is (10_state.md R15, R17). -/
theorem State.BuffersFit.setWidth_plen {s : State} (hs : s.BuffersFit) :
    s.plen.setWidth 32 = BitVec.ofNat 32 s.pb.length :=
  BitVec.setWidth_ofNat_of_le_of_lt (by decide) (hs.pb_le.trans_lt (by decide))

theorem State.BuffersFit.setWidth_flen {s : State} (hs : s.BuffersFit) :
    s.flen.setWidth 32 = BitVec.ofNat 32 s.fb.length := by
  have hfb : s.fb.length ≤ s.cfg.maxPay + 4 := hs.fb_le
  have hmax := s.cfg.maxPay_le
  exact BitVec.setWidth_ofNat_of_le_of_lt (by decide) (by omega)

/-- Whatever the free value is, what is shown of it fits the location's width (log 7). -/
theorem toNat_freeOfWidth_lt (w n : Nat) : (freeOfWidth w n).toNat < 2 ^ w := by
  rw [freeOfWidth, BitVec.toNat_setWidth]
  exact (Nat.mod_le _ _).trans_lt (BitVec.isLt _)

/-- Settles O19: each address lies where the table says, a fill count in range is read in full, and a
free value is cut to the width of its row. -/
theorem readMapIsAsTabulated : Obligations.ReadMapIsAsTabulated := by
  intro s hs
  have reg (ra : Addr) (h : 0x400 ≤ ra.toNat) := s.valueAt_register h
  refine ⟨fun _ => s.valueAt_pb, fun _ => s.valueAt_fb, s.valueAt_raw, reg 0x400 (by decide),
    reg 0x401 (by decide), ?_, ?_, reg 0x404 (by decide), reg 0x405 (by decide),
    reg 0x406 (by decide), reg 0x407 (by decide), reg 0x408 (by decide), reg 0x409 (by decide),
    s.valueAt_sens, s.valueAt_lValue, fun ra rest hin hnone => ?_⟩
  · exact (reg 0x402 (by decide)).trans (congrArg some hs.setWidth_plen)
  · exact (reg 0x403 (by decide)).trans (congrArg some hs.setWidth_flen)
  · refine ⟨_, _, step_read_valueless hin hnone, rfl, fun w hw => ?_⟩
    rw [← locate_width s.cfg ra w hw]
    exact toNat_freeOfWidth_lt _ _

end Sys2Proof.Machine
end

section
/-! PROOFS. The encodings: a request word and its instruction, a frame and its wire command determine
each other (30_encoding.md R60 to R71). -/

namespace Sys2Proof

/-! ### What stands where in a frame (30_encoding.md R60) -/

@[simp] theorem length_frameBytes (c : Byte) (p : List Byte) (a b : Byte) :
    (frameBytes c p a b).length = p.length + 4 := by
  simp [frameBytes]

/-- The length byte states the payload's length whenever that fits in a byte (30_encoding.md R61). -/
theorem toNat_lengthByte {n : Nat} (h : n ≤ 255) : (BitVec.ofNat 8 n).toNat = n := by
  simp only [BitVec.toNat_ofNat]
  omega

theorem eq_take_append_last_two {rest : List Byte} {n : Nat} (h : rest.length = n + 2) :
    rest = rest.take n ++ [rest.getD n 0, rest.getD (n + 1) 0] := by
  have hlast : rest.drop n = [rest.getD n 0, rest.getD (n + 1) 0] := by
    rw [List.drop_eq_getElem_cons (by omega), List.drop_eq_getElem_cons (by omega),
      List.drop_eq_nil_of_le (by omega), List.getD_eq_getElem _ _ (by omega),
      List.getD_eq_getElem _ _ (by omega)]
  rw [← hlast, List.take_append_drop]

/-! ### Request words -/

/-- Each operation code selects the instruction that is encoded with it (30_encoding.md R69, R71). -/
theorem decodeRequest_of_encode {i : Instr} {w : Request} (h : encode i = .request w) :
    decodeRequest w = i := by
  cases i with
  | nop | crcInit | crcByte | pbClr | pbPush | fbClr | fbPush | fcEnc | fcDec | sdParse | reservedA
  | reservedB | reservedC | reservedD | reservedE | reservedF =>
    obtain rfl := Encoded.request.inj h
    simp [decodeRequest]
  | cmdQuery | cmdControl | cmdCounter => cases h

theorem mkRequest_eq_of_reqOp {w : Request} {op : BitVec 4} (h : reqOp w = op) :
    mkRequest op (reqData w) = w := by
  rw [← h, mkRequest_fields]

/-- Every request word is the encoding of what it decodes to. The last case is the code 0xF, the only one
left. -/
theorem encode_decodeRequest (w : Request) : encode (decodeRequest w) = .request w := by
  have hop := (reqOp w).isLt
  unfold decodeRequest
  split
  case h_16 =>
    have hlast : (reqOp w).toNat = 0xF := by
      simp only [imp_false] at *
      omega
    exact congrArg Encoded.request (mkRequest_eq_of_reqOp (BitVec.eq_of_toNat_eq hlast))
  all_goals exact congrArg Encoded.request (mkRequest_eq_of_reqOp (BitVec.eq_of_toNat_eq ‹_›))

theorem wellFormed_decodeRequest (w : Request) : (decodeRequest w).wellFormed = true := by
  unfold decodeRequest
  split <;> rfl

/-! ### Frames -/

/-- What `wireCommand` selects, read both ways (30_encoding.md R64 to R67). -/
theorem wireCommand_eq_ok_iff {c a b : Byte} {p : List Byte} {i : Instr} :
    wireCommand c p a b = .ok i ↔
      (c = cmdQueryByte ∧ i = .cmdQuery p a b) ∨ (c = cmdControlByte ∧ i = .cmdControl p a b) ∨
        (c = cmdCounterByte ∧ i = .cmdCounter p a b) := by
  have hbytes : cmdControlByte ≠ cmdQueryByte ∧ cmdCounterByte ≠ cmdQueryByte ∧
      cmdCounterByte ≠ cmdControlByte := by decide
  obtain ⟨hcontrol, hcounter, hcounter'⟩ := hbytes
  unfold wireCommand
  split_ifs with hq hc hn
  · simp [hq, hcontrol.symm, hcounter.symm, eq_comm]
  · simp [hc, hcontrol, hcounter'.symm, eq_comm]
  · simp [hn, hcounter, hcounter', eq_comm]
  · simp [hq, hc, hn]

theorem encode_of_wireCommand {c a b : Byte} {p : List Byte} {i : Instr}
    (h : wireCommand c p a b = .ok i) : encode i = .frame (frameBytes c p a b) := by
  obtain ⟨rfl, rfl⟩ | ⟨rfl, rfl⟩ | ⟨rfl, rfl⟩ := wireCommand_eq_ok_iff.mp h <;> rfl

theorem wellFormed_of_wireCommand {c a b : Byte} {p : List Byte} {i : Instr}
    (h : wireCommand c p a b = .ok i) (hp : p.length ≤ 255) : i.wellFormed = true := by
  obtain ⟨rfl, rfl⟩ | ⟨rfl, rfl⟩ | ⟨rfl, rfl⟩ := wireCommand_eq_ok_iff.mp h <;>
    exact decide_eq_true hp

/-- The bytes of a frame pass every length test, so its command byte alone decides (30_encoding.md R63). -/
theorem decodeFrame_frameBytes {c a b : Byte} {p : List Byte} (hp : p.length ≤ 255) :
    decodeFrame (frameBytes c p a b) = wireCommand c p a b := by
  simp [decodeFrame, frameBytes, toNat_lengthByte hp]

/-- Bytes that decode are a frame whose length byte states its payload. -/
theorem decodeFrame_eq_ok {bytes : List Byte} {i : Instr} (h : decodeFrame bytes = .ok i) :
    ∃ c p a b, p.length ≤ 255 ∧ bytes = frameBytes c p a b ∧ wireCommand c p a b = .ok i := by
  unfold decodeFrame at h
  split at h
  next c l rest =>
    have hl := l.isLt
    split_ifs at h with htooShort hincomplete hafter
    have hrest : rest.length = l.toNat + 2 := by omega
    have hpayload : (rest.take l.toNat).length = l.toNat := by rw [List.length_take]; omega
    refine ⟨c, rest.take l.toNat, _, _, by omega, ?_, h⟩
    rw [frameBytes, hpayload, BitVec.ofNat_toNat, BitVec.setWidth_eq, List.cons_append, List.cons_append,
      ← eq_take_append_last_two hrest]
  · cases h

theorem decodeFrame_of_encode {i : Instr} {bytes : List Byte} (h : encode i = .frame bytes)
    (hwf : i.wellFormed = true) : decodeFrame bytes = .ok i := by
  cases i with
  | cmdQuery | cmdControl | cmdCounter =>
    obtain rfl := Encoded.frame.inj h
    rw [decodeFrame_frameBytes (of_decide_eq_true hwf), wireCommand_eq_ok_iff]
    simp
  | nop | crcInit | crcByte | pbClr | pbPush | fbClr | fbPush | fcEnc | fcDec | sdParse | reservedA
  | reservedB | reservedC | reservedD | reservedE | reservedF => cases h

theorem encode_of_decodeFrame {bytes : List Byte} {i : Instr} (h : decodeFrame bytes = .ok i) :
    encode i = .frame bytes ∧ i.wellFormed = true := by
  obtain ⟨c, p, a, b, hp, rfl, hi⟩ := decodeFrame_eq_ok h
  exact ⟨encode_of_wireCommand hi, wellFormed_of_wireCommand hi hp⟩

/-! ### Decoding and encoding are inverse -/

/-- Settles O2: an encoding is a request word or a frame, and each decodes to what was encoded. -/
theorem decodeInvertsEncode : Obligations.DecodeInvertsEncode := by
  intro i hwf
  cases he : encode i with
  | request w => exact congrArg Except.ok (decodeRequest_of_encode he)
  | frame bytes => exact decodeFrame_of_encode he hwf

/-- Settles O3: `decodeRequest` is total, and what decodes, word or bytes, is an encoding. -/
theorem encodeInvertsDecode : Obligations.EncodeInvertsDecode := by
  refine ⟨fun w => ⟨decodeRequest w, rfl⟩, fun e i h => ?_⟩
  cases e with
  | request w =>
    obtain rfl := Except.ok.inj h
    exact ⟨encode_decodeRequest w, wellFormed_decodeRequest w⟩
  | frame bytes => exact encode_of_decodeFrame h

/-- Settles O1: each word or frame is the encoding of its instruction, which decoding gives back; the two
ill-formed frames are evaluated. -/
theorem writtenOutWordsDecode : Obligations.WrittenOutWordsDecode :=
  ⟨decodeInvertsEncode (.nop 0xFF) rfl, decodeInvertsEncode (.crcInit 0xA5) rfl,
    decodeInvertsEncode (.crcByte 0x31) rfl, decodeInvertsEncode (.pbClr 0x00) rfl,
    decodeInvertsEncode (.pbPush 0xFF) rfl, decodeInvertsEncode (.fbClr 0x00) rfl,
    decodeInvertsEncode (.fbPush 0xD3) rfl, decodeInvertsEncode (.fcEnc 0x57) rfl,
    decodeInvertsEncode (.fcDec 0x00) rfl, decodeInvertsEncode (.sdParse 0x00) rfl,
    decodeInvertsEncode (.reservedA 0x55) rfl, decodeInvertsEncode (.reservedF 0x00) rfl,
    decodeInvertsEncode (.cmdQuery [] 0xD2 0x75) rfl,
    decodeInvertsEncode (.cmdControl [0x01, 0x00, 0x00, 0x00, 0x00, 0x00] 0xC7 0xD9) rfl,
    decodeInvertsEncode (.cmdCounter [0x02, 0x78, 0x56, 0x34, 0x12] 0x8C 0x5F) rfl,
    rfl, rfl⟩

end Sys2Proof
end

section
/-! PROOFS. What the block does with a received frame (30_encoding.md section 2, R74; log 9), and the
ignored data bytes (R70). -/

namespace Sys2Proof.Machine

/-! ### Delivery is loading and decoding -/

/-- A wire command is the delivery of the bytes it encodes to. -/
theorem exec_of_encode_frame {i : Instr} {bytes : List Byte} (h : encode i = .frame bytes) (s : State) :
    exec i s = receiveFrame bytes s := by
  cases i with
  | cmdQuery | cmdControl | cmdCounter => obtain rfl := Encoded.frame.inj h; rfl
  | nop | crcInit | crcByte | pbClr | pbPush | fbClr | fbPush | fcEnc | fcDec | sdParse | reservedA
  | reservedB | reservedC | reservedD | reservedE | reservedF => cases h

/-- Delivered bytes are received whether or not they are a wire command (log 10). -/
theorem step_frame {s : State} {bytes : List Byte} {rest : List HostInput}
    (hin : s.inputs = .present (.frame bytes) :: rest) :
    step s = receiveFrame bytes (s.setInputs rest) := by
  simp only [step, serveNext, hin, serve, serveEncoded]
  cases hd : decodeFrame bytes with
  | ok i => exact exec_of_encode_frame (encode_of_decodeFrame hd).1 _
  | error r => rfl

/-- `FC.DEC` overwrites the answer of the operation before it, and reads neither part of it. -/
theorem decodeFb_answer (s : State) (c : Cause) : decodeFb (s.answer c) = decodeFb s := rfl

theorem execAll_cons {i : Instr} {is : List Instr} {s t : State} (h : exec i s = .next t) :
    execAll (i :: is) s = execAll is t := by
  rw [execAll, h]

theorem execAll_singleton (i : Instr) (s : State) : execAll [i] s = exec i s := by
  rw [execAll]
  cases exec i s <;> rfl

/-- Pushing bytes appends as many of them as fit (43_buffer_ops.md R164). -/
theorem execAll_fbPush (bs : List Byte) (s : State) (c : Cause) (hfit : s.fb.length ≤ fbCap s.cfg) :
    ∃ c', execAll (bs.map .fbPush) (s.answer c) =
      .next ((s.setFb ((s.fb ++ bs).take (fbCap s.cfg))).answer c') := by
  induction bs generalizing s c with
  | nil =>
    rw [List.append_nil, List.take_of_length_le hfit]
    exact ⟨c, rfl⟩
  | cons d bs ih =>
    rcases execFbPush_cases d (s.answer c) with ⟨hroom, e⟩ | ⟨hfull, e⟩
    · obtain ⟨c', hbs⟩ := ih (s.setFb (s.fb ++ [d])) .ok (by simpa using hroom)
      rw [List.map_cons, execAll_cons (t := (s.setFb (s.fb ++ [d])).answer .ok) (i := .fbPush d) e, hbs]
      exact ⟨c', by simp [State.setFb]⟩
    · obtain ⟨c', hbs⟩ := ih s .bufFull hfit
      simp only [State.answer_cfg, State.answer_fb] at hfull
      rw [List.map_cons, execAll_cons (t := s.answer .bufFull) (i := .fbPush d) e, hbs,
        List.take_append_of_le_length hfull, List.take_append_of_le_length hfull]
      exact ⟨c', rfl⟩

/-- `FB.LOAD` leaves in `FB` as many of the bytes as fit (30_encoding.md R74). -/
theorem execAll_fbLoad (bs : List Byte) (s : State) :
    ∃ c, execAll (fbLoad bs) s = .next ((s.setFb (bs.take (fbCap s.cfg))).answer c) :=
  execAll_fbPush bs (s.setFb []) .ok (Nat.zero_le _)

/-- Receiving bytes is loading them and decoding `FB`, whose answer replaces that of the loading. -/
theorem receiveFrame_eq_fbLoad_fcDec (bs : List Byte) (s : State) (d : Byte) :
    receiveFrame bs s = execAll (fbLoad bs ++ [.fcDec d]) s := by
  obtain ⟨c, hload⟩ := execAll_fbLoad bs s
  rw [execAll_append _ _ _ _ hload, execAll_singleton]
  rfl

/-- Settles O47: both deliveries are `receiveFrame` of the bytes. -/
theorem deliveryIsLoadThenDecode : Obligations.DeliveryIsLoadThenDecode := by
  refine ⟨fun s bs rest d hin => ?_, fun i bs s d he => ?_⟩
  · rw [step_frame hin, receiveFrame_eq_fbLoad_fcDec bs _ d]
    rfl
  · rw [exec_of_encode_frame he, receiveFrame_eq_fbLoad_fcDec bs s d]

/-! ### What is in `FB` when a frame has been received -/

/-- A frame within `MAXPAY` fits in `FB` whole (00_scope.md R6). -/
theorem take_fbCap_frameBytes {cfg : Cfg} {c a b : Byte} {p : List Byte} (hp : p.length ≤ cfg.maxPay) :
    (frameBytes c p a b).take (fbCap cfg) = frameBytes c p a b :=
  List.take_of_length_le (by simpa [fbCap, minFrame, hdrLen, ckLen] using hp)

theorem byteAt_frameBytes_checksum (c : Byte) (p : List Byte) (a b : Byte) :
    byteAt (frameBytes c p a b) (p.length + 2) = a ∧ byteAt (frameBytes c p a b) (p.length + 3) = b := by
  simp [byteAt, frameBytes]

/-- The checksum covers all bytes of a frame but the last two (30_encoding.md R62). -/
theorem take_frameBytes_covered (c : Byte) (p : List Byte) (a b : Byte) :
    (frameBytes c p a b).take (p.length + 2) = coveredBytes c p :=
  List.take_left' (l₁ := coveredBytes c p) rfl

theorem take_drop_frameBytes_payload (c : Byte) (p : List Byte) (a b : Byte) :
    ((frameBytes c p a b).drop 2).take p.length = p :=
  List.take_left

theorem supportedCommand_of_wireCommand {c a b : Byte} {p : List Byte} {i : Instr}
    (h : wireCommand c p a b = .ok i) : supportedCommand c = true := by
  obtain ⟨rfl, -⟩ | ⟨rfl, -⟩ | ⟨rfl, -⟩ := wireCommand_eq_ok_iff.mp h <;> rfl

/-- `FC.DEC` of a frame that stands whole in `FB`, by its checksum (41_frame_codec.md R107, R109). -/
theorem decodeFb_frameBytes {c a b : Byte} {p : List Byte} {s : State} (hfb : s.fb = frameBytes c p a b)
    (hp : p.length ≤ 255) (hc : supportedCommand c = true) :
    (crc16ccitt s.cfg (coveredBytes c p) ≠ ckValue s.cfg a b ∧
      decodeFb s = decodeFail .checksumMismatch (s.setCrc (crcAcc s.cfg (coveredBytes c p)))) ∨
    (crc16ccitt s.cfg (coveredBytes c p) = ckValue s.cfg a b ∧
      decodeFb s = complete (((s.setCrc (crcAcc s.cfg (coveredBytes c p))).setFrame (some {
        cmd := c, len := BitVec.ofNat 8 p.length, cksum := ckValue s.cfg a b
        excess := false })).setPb p)) := by
  have hl : (byteAt s.fb 1).toNat = p.length := by rw [hfb]; exact toNat_lengthByte hp
  have hlen : s.fb.length = p.length + 4 := by rw [hfb, length_frameBytes]
  have hwhole : ¬ s.fbTooShort := by rw [State.fbTooShort, hl, hlen]; omega
  obtain ⟨ha, hb⟩ := byteAt_frameBytes_checksum c p a b
  rcases decodeFb_cases s with ⟨hshort, -⟩ | ⟨-, _, _, _, rfl, rfl, rfl, hends⟩
  · exact absurd hshort hwhole
  rw [hl, hlen, hfb, ha, hb, take_frameBytes_covered] at hends
  rcases hends with ⟨hck, e⟩ | ⟨-, hunsupported, -⟩ | ⟨hck, -, e⟩
  · exact .inl ⟨hck, e⟩
  · cases hc.symm.trans hunsupported
  · rw [take_drop_frameBytes_payload, decide_eq_false (lt_irrefl _)] at e
    exact .inr ⟨hck, e⟩

/-- What a received wire command within `MAXPAY` leaves, by its checksum (30_encoding.md R64 to R66). -/
theorem exec_wireCommand {c a b : Byte} {p : List Byte} {i : Instr} {s : State}
    (hi : wireCommand c p a b = .ok i) (hp : p.length ≤ s.cfg.maxPay) :
    (crc16ccitt s.cfg (coveredBytes c p) ≠ ckValue s.cfg a b ∧
      exec i s = decodeFail .checksumMismatch
        ((s.setFb (frameBytes c p a b)).setCrc (crcAcc s.cfg (coveredBytes c p)))) ∨
    (crc16ccitt s.cfg (coveredBytes c p) = ckValue s.cfg a b ∧
      exec i s = complete ((((s.setFb (frameBytes c p a b)).setCrc
        (crcAcc s.cfg (coveredBytes c p))).setFrame (some {
          cmd := c, len := BitVec.ofNat 8 p.length, cksum := ckValue s.cfg a b
          excess := false })).setPb p)) := by
  rw [exec_of_encode_frame (encode_of_wireCommand hi), receiveFrame, take_fbCap_frameBytes hp]
  exact decodeFb_frameBytes (s := s.setFb (frameBytes c p a b)) rfl (hp.trans s.cfg.maxPay_le)
    (supportedCommand_of_wireCommand hi)

/-- A wire command above `MAXPAY` is cut off by `FB` and so too short for its length byte
(41_frame_codec.md R114). -/
theorem exec_wireCommand_too_long {c a b : Byte} {p : List Byte} {i : Instr} {s : State}
    (hi : wireCommand c p a b = .ok i) (hlong : s.cfg.maxPay < p.length) (hp : p.length ≤ 255) :
    exec i s = decodeFail .tooShort (s.setFb ((frameBytes c p a b).take (fbCap s.cfg))) := by
  rw [exec_of_encode_frame (encode_of_wireCommand hi), receiveFrame]
  generalize ht : s.setFb ((frameBytes c p a b).take (fbCap s.cfg)) = t
  have hshort : t.fbTooShort := by
    subst ht
    have hl : (byteAt ((frameBytes c p a b).take (fbCap s.cfg)) 1).toNat = p.length :=
      toNat_lengthByte hp
    refine .inr ?_
    rw [State.setFb_fb, hl, List.length_take, length_frameBytes, fbCap, minFrame, hdrLen, ckLen]
    omega
  rcases decodeFb_cases t with ⟨-, e⟩ | ⟨hwhole, -⟩
  · exact e
  · exact absurd hshort hwhole

/-- Settles O45: the checksum is the stated one, so the frame is accepted. -/
theorem wireCommandIsAccepted : Obligations.WireCommandIsAccepted := by
  intro p b0 b1 s hp cmd i hi hck
  rcases exec_wireCommand (wireCommand_eq_ok_iff.mpr hi) hp with ⟨hne, -⟩ | ⟨-, e⟩
  · exact absurd hck.symm hne
  · exact e

/-- Settles O46: within `MAXPAY` the checksum test fails, above it the second length test. -/
theorem wireCommandIsRefused : Obligations.WireCommandIsRefused := by
  intro p b0 b1 s cmd i hi
  have hi := wireCommand_eq_ok_iff.mpr hi
  refine ⟨fun hp hck => ?_, fun hlong hp => ?_⟩
  · rcases exec_wireCommand hi hp with ⟨-, e⟩ | ⟨heq, -⟩
    · exact ⟨_, e, rfl, rfl, rfl⟩
    · exact absurd heq.symm hck
  · exact ⟨_, exec_wireCommand_too_long hi hlong hp, rfl, rfl, rfl, rfl⟩

/-! ### Ignored data -/

/-- Settles O4: none of these operations' meanings reads its data byte (30_encoding.md R70). -/
theorem ignoredDataHasNoEffect : Obligations.IgnoredDataHasNoEffect := by
  intro d e s
  exact ⟨rfl, rfl, rfl, rfl, rfl, rfl, rfl, rfl, rfl, rfl, rfl, rfl⟩

end Sys2Proof.Machine
end

section
/-! PROOFS. The Checksum Engine as functions (40_checksum_engine.md R82 to R85, R90): the bits of one shift
and of one byte's entry, that no step of it loses information, and so that no change of a single byte goes
unnoticed. -/

namespace Sys2Proof.Machine

/-! ### One shift -/

theorem crcShift_eq_ite (c : Half) :
    crcShift c = if c.getLsbD 15 = true then (c <<< 1) ^^^ 0x1021 else c <<< 1 := by
  rw [crcShift, BitVec.msb_eq_getLsbD_last]
  rfl

/-- The polynomial is odd, so the bit shifted in at the bottom is the one that left the top. -/
theorem getLsbD_crcShift_zero (c : Half) : (crcShift c).getLsbD 0 = c.getLsbD 15 := by
  rw [crcShift_eq_ite]
  cases htop : c.getLsbD 15 <;> simp

/-- The bit that left the top is known, so the XOR can be undone and the other bits be shifted back. -/
theorem crcShift_injective : Function.Injective crcShift := by
  intro a b h
  have htop : a.getLsbD 15 = b.getLsbD 15 := by
    rw [← getLsbD_crcShift_zero, h, getLsbD_crcShift_zero]
  have hshift : a <<< 1 = b <<< 1 := by
    rw [crcShift_eq_ite, crcShift_eq_ite, htop] at h
    split at h
    · exact (BitVec.xor_left_inj _).mp h
    · exact h
  refine BitVec.eq_of_getLsbD_eq fun k hk => ?_
  by_cases hk' : k = 15
  · rw [hk', htop]
  · have hbit := congrArg (BitVec.getLsbD · (k + 1)) hshift
    have hlt : k + 1 < 16 := by omega
    simpa [hlt, hk] using hbit

theorem repeat_crcShift_injective (n : Nat) : Function.Injective (Nat.repeat crcShift n) := by
  induction n with
  | zero => exact Function.injective_id
  | succ n ih => exact crcShift_injective.comp ih

/-! ### One byte -/

/-- The register before the eight shifts: the byte, reversed under `CRC_REFIN`, is XORed into the top
half (40_checksum_engine.md R82). -/
def crcEnter (cfg : Cfg) (c : Half) (d : Byte) : Half :=
  c ^^^ ((if cfg.crcRefin then rev8 d else d) ++ 0#8)

theorem crcStep_eq_repeat (cfg : Cfg) (c : Half) (d : Byte) :
    crcStep cfg c d = Nat.repeat crcShift 8 (crcEnter cfg c d) := rfl

theorem getLsbD_rev8 (d : Byte) {k : Nat} (h : k < 8) : (rev8 d).getLsbD k = d.getLsbD (7 - k) := by
  rw [rev8, BitVec.getLsbD_reverse, BitVec.getMsbD_eq_getLsbD]
  simp [h]

theorem getLsbD_rev16 (c : Half) {k : Nat} (h : k < 16) :
    (rev16 c).getLsbD k = c.getLsbD (15 - k) := by
  rw [rev16, BitVec.getLsbD_reverse, BitVec.getMsbD_eq_getLsbD]
  simp [h]

theorem getLsbD_crcEnter (cfg : Cfg) (c : Half) (d : Byte) {k : Nat} (h : k < 16) :
    (crcEnter cfg c d).getLsbD k = xor (c.getLsbD k)
      (decide (8 ≤ k) && d.getLsbD (if cfg.crcRefin = true then 15 - k else k - 8)) := by
  rw [crcEnter, BitVec.getLsbD_xor, BitVec.getLsbD_append]
  by_cases hk : k < 8
  · have hk' : ¬ 8 ≤ k := by omega
    simp [hk, hk']
  · have hsub : 7 - (k - 8) = 15 - k := by omega
    rw [if_neg hk, decide_eq_true (by omega : 8 ≤ k), Bool.true_and]
    split
    · rw [getLsbD_rev8 d (by omega), hsub]
    · rfl

theorem rev8_injective : Function.Injective rev8 :=
  Function.LeftInverse.injective (g := rev8) fun _ => BitVec.reverse_reverse_eq

theorem crcEnter_left_injective (cfg : Cfg) (d : Byte) : Function.Injective (crcEnter cfg · d) :=
  fun _ _ => (BitVec.xor_left_inj _).mp

theorem crcEnter_right_injective (cfg : Cfg) (c : Half) : Function.Injective (crcEnter cfg c) := by
  intro d e h
  have hbyte := (BitVec.append_left_inj 0#8).mp ((BitVec.xor_right_inj c).mp h)
  split at hbyte
  · exact rev8_injective hbyte
  · exact hbyte

/-- Different registers stay different under the same byte. -/
theorem crcStep_left_injective (cfg : Cfg) (d : Byte) : Function.Injective (crcStep cfg · d) :=
  (repeat_crcShift_injective 8).comp (crcEnter_left_injective cfg d)

/-- Different bytes lead the same register to different ones. -/
theorem crcStep_right_injective (cfg : Cfg) (c : Half) : Function.Injective (crcStep cfg c) :=
  (repeat_crcShift_injective 8).comp (crcEnter_right_injective cfg c)

/-- Settles O28: the nine values are the register with the byte entered, shifted 0 to 8 times. -/
theorem crcStepShiftsEightTimes : Obligations.CrcStepShiftsEightTimes := by
  intro cfg r d
  exact ⟨fun n => Nat.repeat crcShift n (crcEnter cfg r d), crcStep_eq_repeat cfg r d,
    fun _ => getLsbD_crcEnter cfg r d, fun _ _ => crcShift_eq_ite _⟩

/-! ### A byte sequence -/

theorem crcAcc_append (cfg : Cfg) (s t : List Byte) :
    crcAcc cfg (s ++ t) = t.foldl (crcStep cfg) (crcAcc cfg s) :=
  List.foldl_append

/-- Settles O31: the accumulator is a fold from the left. -/
theorem crcAccumulatesInOrder : Obligations.CrcAccumulatesInOrder :=
  fun cfg s d => ⟨rfl, crcAcc_append cfg s [d]⟩

/-- Different registers stay different under the same bytes. -/
theorem foldl_crcStep_injective (cfg : Cfg) (s : List Byte) :
    Function.Injective (s.foldl (crcStep cfg)) := by
  induction s with
  | nil => exact Function.injective_id
  | cons d s ih => exact ih.comp (crcStep_left_injective cfg d)

/-! ### The final transformation -/

theorem getLsbD_crcFin (cfg : Cfg) (c : Half) {k : Nat} (h : k < 16) :
    (crcFin cfg c).getLsbD k =
      xor (c.getLsbD (if cfg.crcRefout = true then 15 - k else k)) (cfg.crcXorout.getLsbD k) := by
  rw [crcFin, BitVec.getLsbD_xor]
  split
  · rw [getLsbD_rev16 c h]
  · rfl

theorem rev16_injective : Function.Injective rev16 :=
  Function.LeftInverse.injective (g := rev16) fun _ => BitVec.reverse_reverse_eq

theorem crcFin_injective (cfg : Cfg) : Function.Injective (crcFin cfg) := by
  intro a b h
  have hrev := (BitVec.xor_left_inj _).mp h
  split at hrev
  · exact rev16_injective hrev
  · exact hrev

/-- Settles O32: an injection of the finitely many registers into themselves is a bijection. -/
theorem crcFinIsBijective : Obligations.CrcFinIsBijective := by
  intro cfg
  refine ⟨fun r _ => getLsbD_crcFin cfg r, Finite.injective_iff_bijective.mp (crcFin_injective cfg),
    fun hrefout hxorout r => ?_⟩
  simp [crcFin, hrefout, hxorout]

/-! ### A changed byte -/

/-- Messages that differ in one byte only have the same checksum only if that byte is the same: what is
before it and after it loses no information. -/
theorem crc16ccitt_changed_byte (cfg : Cfg) (p q : List Byte) (d e : Byte) :
    crc16ccitt cfg (p ++ d :: q) = crc16ccitt cfg (p ++ e :: q) ↔ d = e := by
  refine ⟨fun h => ?_, fun h => h ▸ rfl⟩
  have hacc := crcFin_injective cfg h
  rw [crcAcc_append, crcAcc_append] at hacc
  exact crcStep_right_injective cfg _ (foldl_crcStep_injective cfg q hacc)

theorem take_append_byteAt {s : List Byte} {i : Nat} (h : i < s.length) :
    s.take i ++ byteAt s i :: s.drop (i + 1) = s := by
  rw [byteAt, List.getD_eq_getElem _ _ h, ← List.drop_eq_getElem_cons h, List.take_append_drop]

theorem flipBit_eq_take_append {s : List Byte} {i : Nat} (k : Fin 8) (h : i < s.length) :
    flipBit s i k = s.take i ++ (byteAt s i ^^^ BitVec.twoPow 8 k.val) :: s.drop (i + 1) := by
  rw [flipBit, List.set_eq_take_append_cons_drop, if_pos h]

/-- A byte with a bit flipped differs from it in that bit. -/
theorem xor_twoPow_ne (d : Byte) (k : Fin 8) : d ^^^ BitVec.twoPow 8 k.val ≠ d := by
  intro h
  have hbit := congrArg (BitVec.getLsbD · k.val) h
  simp at hbit

/-- Settles O34: the flipped byte is another one, and nothing else in the message changes. -/
theorem singleBitFlipChangesChecksum : Obligations.SingleBitFlipChangesChecksum := by
  intro cfg s i k hi heq
  have hbyte : byteAt s i ^^^ BitVec.twoPow 8 k.val = byteAt s i := by
    rw [← crc16ccitt_changed_byte cfg (s.take i) (s.drop (i + 1)), ← flipBit_eq_take_append k hi,
      take_append_byteAt hi, heq]
  exact xor_twoPow_ne _ k hbyte

end Sys2Proof.Machine
end

section
/-! PROOFS. The checksum operations (40_checksum_engine.md R86, R87, R91): their codes and effect, streams of
them, and which addresses of the read map they and the reserved codes leave. -/

namespace Sys2Proof.Machine

/-! ### Codes and effect -/

/-- Settles O27: a word with the operation code is the encoding of the operation, and both operations end
in one write and the answer. -/
theorem checksumOperationsWriteCrc : Obligations.ChecksumOperationsWriteCrc := by
  refine ⟨fun w => ⟨fun hop => ?_, fun hop => ?_⟩, rfl, fun d s => ⟨rfl, rfl⟩⟩
  · exact congrArg Except.ok (decodeRequest_of_encode (i := .crcInit (reqData w))
      (congrArg Encoded.request (mkRequest_eq_of_reqOp hop)))
  · exact congrArg Except.ok (decodeRequest_of_encode (i := .crcByte (reqData w))
      (congrArg Encoded.request (mkRequest_eq_of_reqOp hop)))

/-! ### Streams -/

theorem exec_crc {i : Instr} {s t : State} (h : exec i s = .next t) (hi : i.mayWriteCrc = false) :
    t.crc = s.crc := by
  obtain ⟨-, -, -, -, hcrc, -⟩ := operationsWriteOnlyTheirState i s t h
  exact hcrc hi

/-- `FC.ENC` of a payload above `MAXPAY` fails before it computes a checksum (41_frame_codec.md R103). -/
theorem execFcEnc_crc_of_too_long {c : Byte} {s t : State} (hlong : s.cfg.maxPay < s.pb.length)
    (h : execFcEnc c s = .next t) : t.crc = s.crc := by
  rcases execFcEnc_cases c s with ⟨-, e⟩ | ⟨hle, -⟩
  · rw [e, raise_eq_next] at h
    rw [h]; rfl
  · omega

/-- `FC.DEC` that fails a length test fails before it computes a checksum (41_frame_codec.md R108). -/
theorem decodeFb_crc_of_fbTooShort {s t : State} (hshort : s.fbTooShort) (h : decodeFb s = .next t) :
    t.crc = s.crc := by
  rcases decodeFb_cases s with ⟨-, e⟩ | ⟨hwhole, -⟩
  · rw [e, decodeFail_eq_next] at h
    rw [h]; rfl
  · exact absurd hshort hwhole

/-- The operations listed in 40_checksum_engine.md R91 do not write `CRC`: all but `FC.ENC` and `FC.DEC`
never do, and those two not when they fail early. -/
theorem crc_of_keepsCrc {i : Instr} {s t : State} (hi : KeepsCrc s i) (h : exec i s = .next t) :
    t.crc = s.crc := by
  cases i with
  | fcEnc => exact execFcEnc_crc_of_too_long hi h
  | fcDec => exact decodeFb_crc_of_fbTooShort hi h
  | crcInit | crcByte | cmdQuery | cmdControl | cmdCounter => exact hi.elim
  | nop | pbClr | pbPush | fbClr | fbPush | sdParse | reservedA | reservedB | reservedC | reservedD
  | reservedE | reservedF => exact exec_crc h rfl

theorem exec_crcByte_crc {d : Byte} {s t : State} (h : exec (.crcByte d) s = .next t) :
    t.crc = crcStep s.cfg s.crc d := by
  obtain rfl := (complete_eq_next _ _).mp h
  rfl

/-- A stream folds its bytes into whatever `CRC` it starts from, under the one configuration. -/
theorem Streams.cfg_crc {s u : State} {bs : List Byte} (h : Streams s bs u) :
    u.cfg = s.cfg ∧ u.crc = bs.foldl (crcStep s.cfg) s.crc := by
  induction h with
  | done => exact ⟨rfl, rfl⟩
  | byte s t u d bs he _ ih =>
    rw [exec_cfg he, exec_crcByte_crc he] at ih
    exact ih
  | other s t u i bs hi he _ ih =>
    rw [exec_cfg he, crc_of_keepsCrc hi he] at ih
    exact ih

/-- Settles O33: after `CRC.INIT` the stream folds from `CRC_INIT`, as the accumulator does. -/
theorem streamingEqualsTheFunction : Obligations.StreamingEqualsTheFunction := by
  intro d s t u bs hinit hstream
  obtain rfl := (complete_eq_next _ _).mp hinit
  obtain ⟨hcfg, hcrc⟩ := hstream.cfg_crc
  have hacc : u.crc = crcAcc s.cfg bs := hcrc
  exact ⟨hacc, by rw [State.crcOut, hcfg, hacc]; rfl⟩

/-! ### What the read map shows of it -/

/-- The address of a location that is a register (20_memory.md R42). -/
def Loc.registerAddress : Loc → Option Nat
  | .crc => some 0x400
  | .crcOut => some 0x401
  | .plen => some 0x402
  | .flen => some 0x403
  | .status => some 0x404
  | .frCmd => some 0x405
  | .frLen => some 0x406
  | .frCksum => some 0x407
  | .snapFlags => some 0x408
  | .lineMode => some 0x409
  | .sens i => some (0x410 + i.val)
  | .lValue j => some (0x418 + j.val)
  | .pb _ | .fb _ | .raw _ | .unmapped => none

theorem registerAddress_locateRegister {n a : Nat} (h : (locateRegister n).registerAddress = some a) :
    n = a := by
  unfold locateRegister at h
  split at h
  case h_18 => cases h
  all_goals exact Option.some.inj h

/-- Each register shows at one address only. -/
theorem eq_of_locate_register {c : Cfg} {ra a : Addr} {l : Loc} (hl : locate c ra = l)
    (ha : l.registerAddress = some a.toNat) : ra = a := by
  subst hl
  unfold locate at ha
  split_ifs at ha
  · cases ha
  · cases ha
  · cases ha
  · exact BitVec.eq_of_toNat_eq (registerAddress_locateRegister ha)

theorem State.valueOf_answer (s : State) (c : Cause) {l : Loc} (h : l ≠ .status) :
    (s.answer c).valueOf l = s.valueOf l := by
  cases l with
  | status => exact absurd rfl h
  | _ => rfl

theorem State.valueOf_setCrc (s : State) (v : Half) {l : Loc} (h : l ≠ .crc) (h' : l ≠ .crcOut) :
    (s.setCrc v).valueOf l = s.valueOf l := by
  cases l with
  | crc => exact absurd rfl h
  | crcOut => exact absurd rfl h'
  | _ => rfl

/-- The answer of an operation shows in `STATUS` only. -/
theorem State.valueAt_answer (s : State) (c : Cause) {ra : Addr} (h : ra ≠ 0x404) :
    (s.answer c).valueAt ra = s.valueAt ra :=
  s.valueOf_answer c fun hl => h (eq_of_locate_register hl rfl)

/-- `CRC` shows at its own address and in the view `CRC_OUT` only. -/
theorem State.valueAt_setCrc (s : State) (v : Half) {ra : Addr} (h : ra ≠ 0x400) (h' : ra ≠ 0x401) :
    (s.setCrc v).valueAt ra = s.valueAt ra :=
  s.valueOf_setCrc v (fun hl => h (eq_of_locate_register hl rfl))
    fun hl => h' (eq_of_locate_register hl rfl)

/-- A reserved code does nothing but answer (43_buffer_ops.md R165). -/
theorem exec_reserved {i : Instr} {s t : State} (hi : i.isReserved = true) (h : exec i s = .next t) :
    t = s.answer .illegalOp := by
  have hf := exec_footprint h
  cases i with
  | reservedA | reservedB | reservedC | reservedD | reservedE | reservedF => exact hf
  | nop | crcInit | crcByte | pbClr | pbPush | fbClr | fbPush | fcEnc | fcDec | sdParse | cmdQuery
  | cmdControl | cmdCounter => cases hi

/-- Settles O58: a reserved code only answers, and a checksum operation only writes `CRC` before it. -/
theorem registerOperationsStoreNothing : Obligations.RegisterOperationsStoreNothing := by
  intro i s t ra h hstatus
  refine ⟨fun hi => ?_, fun d hi hcrc hcrcOut => ?_⟩
  · rw [exec_reserved hi h, s.valueAt_answer _ hstatus]
  · have hwrites : ∃ a, t = (s.setCrc a).answer .ok := by
      rcases hi with rfl | rfl <;> exact exec_footprint h
    obtain ⟨a, rfl⟩ := hwrites
    rw [State.valueAt_answer _ _ hstatus, s.valueAt_setCrc a hcrc hcrcOut]

end Sys2Proof.Machine
end

section
/-! PROOFS. The Frame Codec as functions (41_frame_codec.md R101 to R113): the checksum's wire bytes, what
`encode` builds, the tests of `decode` in their order, and a frame with one bit flipped. -/

namespace Sys2Proof.Machine

/-! ### The checksum's two wire bytes -/

theorem toNat_append_bytes (a b : Byte) : (a ++ b : Half).toNat = 256 * a.toNat + b.toNat := by
  rw [BitVec.toNat_append, ← Nat.shiftLeft_add_eq_or_of_lt b.isLt, Nat.shiftLeft_eq]
  omega

theorem toNat_low_byte (k : Half) : (k.extractLsb' 0 8).toNat = k.toNat % 256 := by
  simp

theorem toNat_high_byte (k : Half) : (k.extractLsb' 8 8).toNat = k.toNat / 256 := by
  have hk := k.isLt
  rw [BitVec.extractLsb'_toNat, Nat.shiftRight_eq_div_pow]
  omega

/-- The two bytes of a half-word, put together again, are the half-word. -/
theorem high_append_low_byte (k : Half) : (k.extractLsb' 8 8 ++ k.extractLsb' 0 8 : Half) = k := by
  apply BitVec.eq_of_toNat_eq
  rw [toNat_append_bytes, toNat_low_byte, toNat_high_byte]
  omega

@[simp] theorem ckValue_ckBytes (c : Cfg) (k : Half) : ckValue c (ckBytes c k).1 (ckBytes c k).2 = k := by
  unfold ckValue ckBytes
  cases c.cksumOrder <;> exact high_append_low_byte k

/-- Other checksum bytes mean another checksum, in either order. -/
theorem ckValue_inj {c : Cfg} {a b a' b' : Byte} (h : ckValue c a b = ckValue c a' b') :
    a = a' ∧ b = b' := by
  have hnat := congrArg BitVec.toNat h
  unfold ckValue at hnat
  simp only [← BitVec.toNat_inj]
  have ha := a.isLt; have hb := b.isLt; have ha' := a'.isLt; have hb' := b'.isLt
  cases hord : c.cksumOrder <;> simp only [hord, toNat_append_bytes] at hnat <;> omega

/-- Settles O35: by the order of the bytes. -/
theorem checksumWireBytes : Obligations.ChecksumWireBytes := by
  intro c k b0 b1
  refine ⟨ckValue_ckBytes c k, fun hord => ?_, fun hord => ?_⟩
  · simp only [ckBytes, ckValue, hord]
    exact ⟨toNat_low_byte k, toNat_high_byte k, toNat_append_bytes b1 b0⟩
  · simp only [ckBytes, ckValue, hord]
    exact ⟨toNat_high_byte k, toNat_low_byte k, toNat_append_bytes b0 b1⟩

/-! ### What `encode` builds -/

/-- The frame of a command and a payload (41_frame_codec.md R102). -/
def encodedFrame (c : Cfg) (cmd : Byte) (p : List Byte) : List Byte :=
  frameBytes cmd p (ckBytes c (crc16ccitt c (coveredBytes cmd p))).1
    (ckBytes c (crc16ccitt c (coveredBytes cmd p))).2

theorem frameEncode_of_le {c : Cfg} {cmd : Byte} {p : List Byte} (hp : p.length ≤ c.maxPay) :
    frameEncode c cmd p = some (encodedFrame c cmd p) :=
  if_neg (Nat.not_lt.mpr hp)

theorem frameEncode_of_lt {c : Cfg} {cmd : Byte} {p : List Byte} (hp : c.maxPay < p.length) :
    frameEncode c cmd p = none :=
  if_pos hp

theorem frameEncode_eq_some {c : Cfg} {cmd : Byte} {p f : List Byte}
    (h : frameEncode c cmd p = some f) : p.length ≤ c.maxPay ∧ f = encodedFrame c cmd p := by
  by_cases hp : p.length ≤ c.maxPay
  · rw [frameEncode_of_le hp] at h
    exact ⟨hp, (Option.some.inj h).symm⟩
  · rw [frameEncode_of_lt (Nat.lt_of_not_le hp)] at h
    cases h

@[simp] theorem length_encodedFrame (c : Cfg) (cmd : Byte) (p : List Byte) :
    (encodedFrame c cmd p).length = p.length + 4 :=
  length_frameBytes ..

theorem take_encodedFrame_covered (c : Cfg) (cmd : Byte) (p : List Byte) :
    (encodedFrame c cmd p).take (p.length + 2) = coveredBytes cmd p :=
  take_frameBytes_covered ..

/-- The last two bytes of a frame are the checksum of those before them. -/
theorem ckValue_encodedFrame (c : Cfg) (cmd : Byte) (p : List Byte) :
    ckValue c (byteAt (encodedFrame c cmd p) (p.length + 2))
      (byteAt (encodedFrame c cmd p) (p.length + 3)) = crc16ccitt c (coveredBytes cmd p) := by
  obtain ⟨ha, hb⟩ := byteAt_frameBytes_checksum cmd p
    (ckBytes c (crc16ccitt c (coveredBytes cmd p))).1 (ckBytes c (crc16ccitt c (coveredBytes cmd p))).2
  rw [encodedFrame, ha, hb, ckValue_ckBytes]

theorem toNat_lengthByte_encodedFrame {c : Cfg} {cmd : Byte} {p : List Byte}
    (hp : p.length ≤ c.maxPay) : (byteAt (encodedFrame c cmd p) 1).toNat = p.length :=
  toNat_lengthByte (hp.trans c.maxPay_le)

/-- Settles O36: what stands where in the encoded frame. -/
theorem encodeBuildsTheFrame : Obligations.EncodeBuildsTheFrame := by
  intro c cmd p
  refine ⟨frameEncode_of_lt, fun hp => ⟨_, frameEncode_of_le hp, length_encodedFrame c cmd p, rfl,
    toNat_lengthByte_encodedFrame hp, take_drop_frameBytes_payload .., ?_⟩⟩
  rw [ckValue_encodedFrame, take_encodedFrame_covered]

/-! ### The tests of `decode`, in their order -/

theorem supportedCommand_iff (c : Byte) :
    supportedCommand c = true ↔ c = 0x52 ∨ c = 0x57 ∨ c = 0x58 := by
  simp [supportedCommand, cmdQueryByte, cmdControlByte, cmdCounterByte, or_assoc]

/-- The record `decode` returns of bytes that pass its tests (41_frame_codec.md R106). -/
def frameOf (c : Cfg) (s : List Byte) : Frame where
  command := byteAt s 0
  length := byteAt s 1
  payload := (s.drop 2).take (byteAt s 1).toNat
  checksum := ckValue c (byteAt s ((byteAt s 1).toNat + 2)) (byteAt s ((byteAt s 1).toNat + 3))
  excess := decide ((byteAt s 1).toNat + 4 < s.length)

/-- `decode` as its tests in their order (41_frame_codec.md R106). -/
theorem frameDecode_eq (c : Cfg) (s : List Byte) :
    frameDecode c s =
      if s.length < 4 ∨ s.length < (byteAt s 1).toNat + 4 then .error .tooShort
      else if crc16ccitt c (s.take ((byteAt s 1).toNat + 2)) =
          ckValue c (byteAt s ((byteAt s 1).toNat + 2)) (byteAt s ((byteAt s 1).toNat + 3)) then
        if supportedCommand (byteAt s 0) = true then .ok (frameOf c s) else .error .unknownCommand
      else .error .checksumMismatch := by
  -- the two length tests have one outcome, and `decode` states the other two as what must not be
  change (if s.length < 4 then _ else if s.length < (byteAt s 1).toNat + 4 then _ else
    if crc16ccitt c (s.take ((byteAt s 1).toNat + 2)) ≠ _ then _ else _) = _
  rw [← ite_or, ite_not]
  cases supportedCommand (byteAt s 0) <;> rfl

/-- Settles O39: each result belongs to the first test that fails, or to none. -/
theorem decodeChecksInOrder : Obligations.DecodeChecksInOrder := by
  rintro c s _ _ _ rfl rfl rfl
  have hcmd := supportedCommand_iff (byteAt s 0)
  rw [frameDecode_eq]
  split_ifs with hshort hck hsupported
  all_goals grind [frameOf]

/-! ### Bytes after the frame -/

theorem byteAt_take {s : List Byte} {n i : Nat} (h : i < n) : byteAt (s.take n) i = byteAt s i := by
  rw [byteAt, byteAt, List.getD_eq_getElem?_getD, List.getD_eq_getElem?_getD, List.getElem?_take, if_pos h]

/-- The record of the bytes of the frame alone differs in the excess flag only. -/
theorem frameOf_take (c : Cfg) {s : List Byte} {l : Nat} (hl : (byteAt s 1).toNat = l) :
    frameOf c s = { frameOf c (s.take (l + 4)) with excess := decide (l + 4 < s.length) } := by
  have hbyte (i : Nat) (hi : i < l + 4) : byteAt (s.take (l + 4)) i = byteAt s i := byteAt_take hi
  simp only [frameOf, hbyte 0 (by omega), hbyte 1 (by omega), hl, hbyte (l + 2) (by omega),
    hbyte (l + 3) (by omega), List.drop_take, List.take_take, Nat.min_eq_left (by omega : l ≤ l + 4 - 2)]

/-- Of bytes long enough for their frame `decode` reads the frame only (41_frame_codec.md R111). -/
theorem frameDecode_take (c : Cfg) {s : List Byte} {l : Nat} (hl : (byteAt s 1).toNat = l)
    (hlen : l + 4 ≤ s.length) :
    frameDecode c s = (frameDecode c (s.take (l + 4))).map fun f =>
      { f with excess := decide (l + 4 < s.length) } := by
  have hbyte (i : Nat) (hi : i < l + 4) : byteAt (s.take (l + 4)) i = byteAt s i := byteAt_take hi
  have hwhole : ¬ (s.length < 4 ∨ s.length < l + 4) := by omega
  have hwhole' : ¬ (l + 4 < 4 ∨ l + 4 < l + 4) := by omega
  rw [frameDecode_eq, frameDecode_eq, hbyte 0 (by omega), hbyte 1 (by omega), hl, hbyte (l + 2) (by omega),
    hbyte (l + 3) (by omega), List.length_take_of_le hlen, if_neg hwhole, if_neg hwhole', List.take_take,
    Nat.min_eq_left (by omega), frameOf_take c hl]
  split_ifs <;> rfl

/-! ### A frame with one bit flipped -/

@[simp] theorem length_flipBit (s : List Byte) (i : Nat) (k : Fin 8) :
    (flipBit s i k).length = s.length :=
  List.length_set

theorem byteAt_flipBit_self {s : List Byte} {i : Nat} (k : Fin 8) (h : i < s.length) :
    byteAt (flipBit s i k) i = byteAt s i ^^^ BitVec.twoPow 8 k.val := by
  simp [byteAt, flipBit, h]

theorem byteAt_flipBit_of_ne (s : List Byte) {i j : Nat} (k : Fin 8) (h : i ≠ j) :
    byteAt (flipBit s i k) j = byteAt s j := by
  simp [byteAt, flipBit, h]

theorem take_flipBit_of_lt {s : List Byte} {i n : Nat} (k : Fin 8) (h : i < n) :
    (flipBit s i k).take n = flipBit (s.take n) i k := by
  rw [flipBit, flipBit, List.take_set, byteAt_take h]

theorem take_flipBit_of_le {s : List Byte} {i n : Nat} (k : Fin 8) (h : n ≤ i) :
    (flipBit s i k).take n = s.take n :=
  List.take_set_of_le h

theorem testBit_flip (d : Byte) (k : Fin 8) (j : Nat) :
    (d ^^^ BitVec.twoPow 8 k.val).toNat.testBit j = xor (d.toNat.testBit j) (decide (k.val = j)) := by
  have hk : 2 ^ k.val < 2 ^ 8 := Nat.pow_lt_pow_right (by decide) k.isLt
  rw [BitVec.toNat_xor, BitVec.toNat_twoPow_of_lt k.isLt, Nat.testBit_xor, Nat.testBit_two_pow]

/-- A bit flipped up raises the byte. -/
theorem lt_flip {d : Byte} {k : Fin 8} (h : d.toNat.testBit k.val = false) :
    d.toNat < (d ^^^ BitVec.twoPow 8 k.val).toNat := by
  refine Nat.lt_of_testBit k.val h ?_ fun j hj => ?_
  · rw [testBit_flip, h]; simp
  · rw [testBit_flip]; simp [hj.ne]

/-- A bit flipped down lowers the byte. -/
theorem flip_lt {d : Byte} {k : Fin 8} (h : d.toNat.testBit k.val = true) :
    (d ^^^ BitVec.twoPow 8 k.val).toNat < d.toNat := by
  refine Nat.lt_of_testBit k.val ?_ h fun j hj => ?_
  · rw [testBit_flip, h]; simp
  · rw [testBit_flip]; simp [hj.ne]

/-- Outside the length byte a flipped bit makes the two checksums differ: one that is covered changes the
computed checksum (40_checksum_engine.md R90), one that is not the stated one. -/
theorem frameDecode_flipBit {c : Cfg} {cmd : Byte} {p : List Byte} {i : Nat} {k : Fin 8}
    (hp : p.length ≤ c.maxPay) (hi : i < p.length + 4) (hi1 : i ≠ 1) :
    frameDecode c (flipBit (encodedFrame c cmd p) i k) = .error .checksumMismatch := by
  have hl : (byteAt (flipBit (encodedFrame c cmd p) i k) 1).toNat = p.length := by
    rw [byteAt_flipBit_of_ne _ k hi1, toNat_lengthByte_encodedFrame hp]
  have hck : crc16ccitt c ((flipBit (encodedFrame c cmd p) i k).take (p.length + 2)) ≠
      ckValue c (byteAt (flipBit (encodedFrame c cmd p) i k) (p.length + 2))
        (byteAt (flipBit (encodedFrame c cmd p) i k) (p.length + 3)) := by
    by_cases hcov : i < p.length + 2
    · rw [take_flipBit_of_lt k hcov, byteAt_flipBit_of_ne _ k (by omega),
        byteAt_flipBit_of_ne _ k (by omega), take_encodedFrame_covered, ckValue_encodedFrame]
      exact singleBitFlipChangesChecksum c _ i k hcov
    · rw [take_flipBit_of_le k (by omega), take_encodedFrame_covered, ← ckValue_encodedFrame]
      intro h
      obtain ⟨ha, hb⟩ := ckValue_inj h
      obtain rfl | rfl : i = p.length + 2 ∨ i = p.length + 3 := by omega
      · rw [byteAt_flipBit_self k (by simp)] at ha
        exact xor_twoPow_ne _ k ha.symm
      · rw [byteAt_flipBit_self k (by simp)] at hb
        exact xor_twoPow_ne _ k hb.symm
  rw [frameDecode_eq, hl, length_flipBit, length_encodedFrame, if_neg (by omega), if_neg hck]

/-- The length byte with a bit flipped. -/
theorem lengthByte_flipBit_encodedFrame (c : Cfg) (cmd : Byte) (p : List Byte) (k : Fin 8) :
    byteAt (flipBit (encodedFrame c cmd p) 1 k) 1 = BitVec.ofNat 8 p.length ^^^ BitVec.twoPow 8 k.val :=
  byteAt_flipBit_self k (by simp)

/-- A raised length byte asks for more bytes than there are. -/
theorem frameDecode_raised_length {c : Cfg} {cmd : Byte} {p : List Byte} {k : Fin 8}
    (hp : p.length ≤ c.maxPay) (hbit : p.length.testBit k.val = false) :
    frameDecode c (flipBit (encodedFrame c cmd p) 1 k) = .error .tooShort := by
  have hlen := toNat_lengthByte (hp.trans c.maxPay_le)
  have hlt := lt_flip (d := BitVec.ofNat 8 p.length) (k := k) (by rw [hlen, hbit])
  rw [hlen] at hlt
  rw [frameDecode_eq, lengthByte_flipBit_encodedFrame, length_flipBit, length_encodedFrame, if_pos (by omega)]

/-- A lowered length byte leaves a shorter frame, which need not be refused. -/
theorem frameDecode_lowered_length {c : Cfg} {cmd : Byte} {p : List Byte} {k : Fin 8}
    (hp : p.length ≤ c.maxPay) (hbit : p.length.testBit k.val = true) :
    frameDecode c (flipBit (encodedFrame c cmd p) 1 k) = .error .checksumMismatch ∨
    (supportedCommand cmd = false ∧
      frameDecode c (flipBit (encodedFrame c cmd p) 1 k) = .error .unknownCommand) ∨
    (supportedCommand cmd = true ∧ ∃ g, frameDecode c (flipBit (encodedFrame c cmd p) 1 k) = .ok g ∧
      g.payload.length < p.length ∧ g.excess = true) := by
  have hlen := toNat_lengthByte (hp.trans c.maxPay_le)
  have hlt := flip_lt (d := BitVec.ofNat 8 p.length) (k := k) (by rw [hlen, hbit])
  rw [hlen, ← lengthByte_flipBit_encodedFrame c cmd] at hlt
  have h0 : byteAt (flipBit (encodedFrame c cmd p) 1 k) 0 = cmd := byteAt_flipBit_of_ne _ k one_ne_zero
  rw [frameDecode_eq, h0, if_neg (by simp; omega)]
  split_ifs with hck hcmd
  · refine .inr (.inr ⟨hcmd, _, rfl, ?_, ?_⟩)
    · simp [frameOf]; omega
    · simp [frameOf]; omega
  · exact .inr (.inl ⟨by simpa using hcmd, rfl⟩)
  · exact .inl rfl

/-- Whatever a frame with one bit flipped still decodes to has a shorter payload. -/
theorem length_payload_of_flipBit {c : Cfg} {cmd : Byte} {p : List Byte} {i : Nat} {k : Fin 8} {g : Frame}
    (hp : p.length ≤ c.maxPay) (hi : i < p.length + 4)
    (hg : frameDecode c (flipBit (encodedFrame c cmd p) i k) = .ok g) : g.payload.length < p.length := by
  by_cases hi1 : i = 1
  · subst hi1
    cases hbit : p.length.testBit k.val
    · cases (frameDecode_raised_length hp hbit).symm.trans hg
    · obtain h | ⟨-, h⟩ | ⟨-, g', h, hlt, -⟩ := frameDecode_lowered_length (cmd := cmd) hp hbit
      · cases h.symm.trans hg
      · cases h.symm.trans hg
      · cases h.symm.trans hg
        exact hlt
  · cases (frameDecode_flipBit hp hi hi1).symm.trans hg

/-- Settles O42: by where the flipped bit lies. -/
theorem flippedFrameNeverReadsAsTheOriginal : Obligations.FlippedFrameNeverReadsAsTheOriginal := by
  intro c cmd p f i k hf hi
  obtain ⟨hp, rfl⟩ := frameEncode_eq_some hf
  rw [length_encodedFrame] at hi
  refine ⟨fun g hg hgp => ?_, frameDecode_flipBit hp hi, ?_, ?_⟩
  · exact (length_payload_of_flipBit hp hi hg).ne (congrArg List.length hgp)
  · rintro rfl hbit
    exact frameDecode_raised_length hp hbit
  · rintro rfl hbit
    exact frameDecode_lowered_length hp hbit

/-! ### Round trip -/

/-- `decode` of an encoded frame gets back what was encoded (41_frame_codec.md R112). -/
theorem frameDecode_encodedFrame {c : Cfg} {cmd : Byte} {p : List Byte} (hp : p.length ≤ c.maxPay) :
    frameDecode c (encodedFrame c cmd p) =
      if supportedCommand cmd = true then .ok {
        command := cmd, length := BitVec.ofNat 8 p.length, payload := p
        checksum := crc16ccitt c (coveredBytes cmd p), excess := false }
      else .error .unknownCommand := by
  have hl := toNat_lengthByte_encodedFrame (cmd := cmd) hp
  have hrecord : frameOf c (encodedFrame c cmd p) = {
      command := cmd, length := BitVec.ofNat 8 p.length, payload := p
      checksum := crc16ccitt c (coveredBytes cmd p), excess := false } := by
    simp only [frameOf, hl, ckValue_encodedFrame, length_encodedFrame, lt_irrefl, decide_false]
    congr 1
    exact take_drop_frameBytes_payload ..
  rw [frameDecode_eq, hl, length_encodedFrame, if_neg (by omega), take_encodedFrame_covered,
    ckValue_encodedFrame, if_pos rfl, hrecord]
  rfl

end Sys2Proof.Machine
end

section
/-! PROOFS. The operations `FC.ENC` and `FC.DEC` (41_frame_codec.md R103, R107, R111 to R115): they do to
the state what `encode` and `decode` say, so each fact about the operations is one about the functions. -/

namespace Sys2Proof.Machine

/-- A word with the operation code of an instruction, and its data byte, decodes to it. -/
theorem decode_request_of_reqOp {w : Request} {op : BitVec 4} {i : Instr} (hop : reqOp w = op)
    (hi : encode i = .request (mkRequest op (reqData w))) : decode (.request w) = .ok i :=
  congrArg Except.ok (decodeRequest_of_encode
    (hi.trans (congrArg Encoded.request (mkRequest_eq_of_reqOp hop))))

/-! ### `FC.ENC` does what `encode` says -/

theorem exec_fcEnc_of_le (cmd : Byte) {s : State} (hp : s.pb.length ≤ s.cfg.maxPay) :
    exec (.fcEnc cmd) s = .next (((s.setFb (encodedFrame s.cfg cmd s.pb)).setCrc
      (crcAcc s.cfg (coveredBytes cmd s.pb))).answer .ok) := by
  rcases execFcEnc_cases cmd s with ⟨hlong, -⟩ | ⟨-, _, _, rfl, rfl, e⟩
  · exact absurd hp (Nat.not_le.mpr hlong)
  · exact e

theorem exec_fcEnc_of_lt (cmd : Byte) {s : State} (hp : s.cfg.maxPay < s.pb.length) :
    exec (.fcEnc cmd) s = .next ((s.setFb []).answer .invalidPayloadSize) := by
  rcases execFcEnc_cases cmd s with ⟨-, e⟩ | ⟨hle, -⟩
  · exact e
  · exact absurd hp (Nat.not_lt.mpr hle)

/-- Settles O37: the word is the operation's encoding, and the length test is that of `encode`. -/
theorem encodeOperationBuildsTheFrame : Obligations.EncodeOperationBuildsTheFrame := by
  refine ⟨fun w hop => decode_request_of_reqOp hop rfl, rfl, rfl,
    fun cmd s => ⟨fun hp => ⟨_, frameEncode_of_le hp, ?_⟩, exec_fcEnc_of_lt cmd⟩⟩
  rw [take_encodedFrame_covered]
  exact exec_fcEnc_of_le cmd hp

/-! ### `FC.DEC` does what `decode` says -/

/-- The state after `FC.DEC`, from the accumulator it computes and what `decode` says of `FB`
(41_frame_codec.md R107). -/
def State.afterDecode (s : State) (a : Half) : Except Cause Frame → State
  | .ok f => { s with
      crc := a
      frame := some { cmd := f.command, len := f.length, cksum := f.checksum, excess := f.excess }
      pb := f.payload, err := .ok, rsp := some .ok }
  | .error c => { s with
      crc := if c = .tooShort then s.crc else a
      frame := none, pb := [], err := c, rsp := some c }

/-- `FC.DEC` makes the tests of `decode`, in the same order. -/
theorem decodeFb_eq (s : State) :
    decodeFb s = .next (s.afterDecode (crcAcc s.cfg (s.fb.take ((byteAt s.fb 1).toNat + 2)))
      (frameDecode s.cfg s.fb)) := by
  have hends := decodeFb_cases s
  rw [State.fbTooShort] at hends
  rw [frameDecode_eq, crc16ccitt]
  rcases hends with
    ⟨hshort, e⟩ | ⟨hwhole, _, _, _, rfl, rfl, rfl, ⟨hck, e⟩ | ⟨hck, hcmd, e⟩ | ⟨hck, hcmd, e⟩⟩
  · rw [if_pos hshort]
    exact e
  · rw [if_neg hwhole, if_neg hck]
    exact e
  · rw [if_neg hwhole, if_pos hck, if_neg (by simp [hcmd])]
    exact e
  · rw [if_neg hwhole, if_pos hck, if_pos hcmd]
    exact e

/-- A frame `decode` returns is the one that stands at the front of the bytes. -/
theorem eq_frameOf_of_frameDecode {c : Cfg} {s : List Byte} {f : Frame} (h : frameDecode c s = .ok f) :
    f = frameOf c s := by
  rw [frameDecode_eq] at h
  split_ifs at h
  exact (Except.ok.inj h).symm

theorem exec_fcDec_of_ok (d : Byte) {s : State} {f : Frame} (h : frameDecode s.cfg s.fb = .ok f) :
    exec (.fcDec d) s = .next (s.afterDecode (crcAcc s.cfg (s.fb.take (f.length.toNat + 2))) (.ok f)) := by
  rw [← h, eq_frameOf_of_frameDecode h]
  exact decodeFb_eq s

theorem exec_fcDec_of_error (d : Byte) {s : State} {c : Cause} (h : frameDecode s.cfg s.fb = .error c) :
    exec (.fcDec d) s = .next (s.afterDecode (crcAcc s.cfg (s.fb.take ((byteAt s.fb 1).toNat + 2)))
      (.error c)) :=
  h ▸ decodeFb_eq s

/-- Settles O38: `FC.DEC` is `decode` of `FB`, and `decode` accepts what passes every check. -/
theorem decodeOperationAgreesWithDecode : Obligations.DecodeOperationAgreesWithDecode := by
  refine ⟨fun w hop => decode_request_of_reqOp hop rfl, ⟨rfl, rfl, rfl, rfl⟩, ?_,
    fun d s => ⟨fun f => exec_fcDec_of_ok d, fun c => exec_fcDec_of_error d⟩⟩
  rintro d s _ _ _ rfl rfl rfl h4 hl hck hcmd
  obtain ⟨-, -, -, -, hok⟩ := decodeChecksInOrder s.cfg s.fb _ _ _ rfl rfl rfl
  exact exec_fcDec_of_ok d ((hok _).mpr ⟨h4, hl, hck, hcmd, rfl⟩)

/-- The response of `FC.DEC` is the result of `decode`. -/
theorem exec_fcDec_rsp {d : Byte} {s t : State} (h : exec (.fcDec d) s = .next t) :
    (∃ f, frameDecode s.cfg s.fb = .ok f ∧ t.rsp = some .ok) ∨
    (∃ c, frameDecode s.cfg s.fb = .error c ∧ t.rsp = some c) := by
  cases hdec : frameDecode s.cfg s.fb with
  | ok f =>
    rw [exec_fcDec_of_ok d hdec] at h
    obtain rfl := Host.Outcome.next.inj h
    exact .inl ⟨f, rfl, rfl⟩
  | error c =>
    rw [exec_fcDec_of_error d hdec] at h
    obtain rfl := Host.Outcome.next.inj h
    exact .inr ⟨c, rfl, rfl⟩

theorem frameDecode_ne_error {c : Cfg} {s : List Byte} {e : Cause}
    (h : e ≠ .tooShort ∧ e ≠ .checksumMismatch ∧ e ≠ .unknownCommand) : frameDecode c s ≠ .error e := by
  obtain ⟨-, -, -, honly, -⟩ := decodeChecksInOrder c s _ _ _ rfl rfl rfl
  exact fun hdec => by simpa [h] using honly e hdec

/-- When `FC.DEC` answers `OK`, `decode` returns a frame, and the state takes it. -/
theorem exec_fcDec_ok {d : Byte} {s t : State} (h : exec (.fcDec d) s = .next t) (hrsp : t.rsp = some .ok) :
    frameDecode s.cfg s.fb = .ok (frameOf s.cfg s.fb) ∧
      t = s.afterDecode (crcAcc s.cfg (s.fb.take ((byteAt s.fb 1).toNat + 2)))
        (.ok (frameOf s.cfg s.fb)) := by
  rcases exec_fcDec_rsp h with ⟨f, hdec, -⟩ | ⟨c, hdec, e⟩
  · obtain rfl := eq_frameOf_of_frameDecode hdec
    exact ⟨hdec, (Host.Outcome.next.inj ((exec_fcDec_of_ok d hdec).symm.trans h)).symm⟩
  · obtain rfl : c = .ok := Option.some.inj (e.symm.trans hrsp)
    exact absurd hdec (frameDecode_ne_error (by decide))

/-- Settles O40: `decode` reads the bytes of the frame only, and `FR_EXCESS` is the excess flag of the frame
it returns. -/
theorem bytesAfterTheFrameAreIgnored : Obligations.BytesAfterTheFrameAreIgnored := by
  refine ⟨fun c s l hl _ hlen => frameDecode_take c hl.symm hlen,
    fun d s t h => ⟨exec_fb h rfl, fun hrsp => ?_⟩⟩
  obtain ⟨-, rfl⟩ := exec_fcDec_ok h hrsp
  exact decide_eq_true_iff

/-- Settles O43: `decode` has no such error, and what declares more than `MAXPAY` bytes cannot stand whole
in `FB`. -/
theorem lengthAboveMaxPayIsTooShort : Obligations.LengthAboveMaxPayIsTooShort := by
  intro d s t hfits h
  refine ⟨fun hrsp => ?_, fun hlong => ?_⟩
  · rcases exec_fcDec_rsp h with ⟨f, -, e⟩ | ⟨c, hdec, e⟩
    · cases e.symm.trans hrsp
    · obtain rfl : c = .invalidPayloadSize := Option.some.inj (e.symm.trans hrsp)
      exact frameDecode_ne_error (by decide) hdec
  · obtain ⟨hshort, -⟩ := decodeChecksInOrder s.cfg s.fb _ _ _ rfl rfl rfl
    have hcut : s.fb.length < (byteAt s.fb 1).toNat + 4 :=
      Nat.lt_of_not_le fun hl => Nat.not_le.mpr hlong (len_le_maxPay_of_fits hfits hl)
    rw [exec_fcDec_of_error d (hshort.mpr (.inr hcut))] at h
    obtain rfl := Host.Outcome.next.inj h
    rfl

/-! ### What holds after a success -/

theorem exec_fcEnc_ok {cmd : Byte} {s t : State} (h : exec (.fcEnc cmd) s = .next t)
    (hrsp : t.rsp = some .ok) :
    s.pb.length ≤ s.cfg.maxPay ∧ t = ((s.setFb (encodedFrame s.cfg cmd s.pb)).setCrc
      (crcAcc s.cfg (coveredBytes cmd s.pb))).answer .ok := by
  by_cases hp : s.pb.length ≤ s.cfg.maxPay
  · exact ⟨hp, (Host.Outcome.next.inj ((exec_fcEnc_of_le cmd hp).symm.trans h)).symm⟩
  · rw [exec_fcEnc_of_lt cmd (Nat.lt_of_not_le hp)] at h
    obtain rfl := Host.Outcome.next.inj h
    cases hrsp

/-- The bytes of the payload stand two places up in the frame. -/
theorem byteAt_take_drop_two {s : List Byte} {l i : Nat} (h : i < l) :
    byteAt ((s.drop 2).take l) i = byteAt s (2 + i) := by
  rw [byteAt_take h, byteAt, byteAt, List.getD_eq_getElem?_getD, List.getD_eq_getElem?_getD,
    List.getElem?_drop]

/-- Settles O44: read off the encoded frame and the decoded record. -/
theorem codecPostconditions : Obligations.CodecPostconditions := by
  refine ⟨fun cmd s t h hrsp => ?_, fun d s t h hrsp => ?_⟩
  · obtain ⟨hp, rfl⟩ := exec_fcEnc_ok h hrsp
    have hlen : (encodedFrame s.cfg cmd s.pb).length = s.pb.length + 4 := length_encodedFrame ..
    have hcap : s.pb.length + 4 ≤ fbCap s.cfg := Nat.add_le_add_right hp 4
    refine ⟨hlen, hlen ▸ Nat.le_add_left 4 _, hlen ▸ hcap, toNat_lengthByte_encodedFrame hp, ?_⟩
    simp only [State.answer_fb, State.setCrc_fb, State.setFb_fb, hlen]
    exact (ckValue_encodedFrame s.cfg cmd s.pb).symm
  · obtain ⟨hdec, rfl⟩ := exec_fcDec_ok h hrsp
    obtain ⟨-, -, -, -, hok⟩ := decodeChecksInOrder s.cfg s.fb _ _ _ rfl rfl rfl
    obtain ⟨-, hl, hck, -⟩ := (hok _).mp hdec
    have hlen : ((s.fb.drop 2).take (byteAt s.fb 1).toNat).length = (byteAt s.fb 1).toNat := by
      rw [List.length_take, List.length_drop]; omega
    exact ⟨_, rfl, hlen, rfl, fun i hi => byteAt_take_drop_two (hlen ▸ hi), rfl, hck.symm⟩

/-! ### Round trip -/

/-- Pushing bytes for which there is room appends them all (43_buffer_ops.md R162). -/
theorem execAll_pbPush (bs : List Byte) (s : State) (hroom : s.pb.length + bs.length ≤ 256) :
    execAll (bs.map .pbPush) (s.answer .ok) = .next ((s.setPb (s.pb ++ bs)).answer .ok) := by
  induction bs generalizing s with
  | nil => rw [List.append_nil]; rfl
  | cons d bs ih =>
    rw [List.length_cons] at hroom
    rcases execPbPush_cases d (s.answer .ok) with ⟨-, e⟩ | ⟨hfull, -⟩
    · rw [List.map_cons, execAll_cons (t := (s.setPb (s.pb ++ [d])).answer .ok) (i := .pbPush d) e,
        ih _ (by simp; omega)]
      simp [State.setPb]
    · rw [State.answer_pb] at hfull
      omega

/-- `PB.LOAD` of at most `PBCAP` bytes leaves just these in `PB` (30_encoding.md R74). -/
theorem execAll_pbLoad {p : List Byte} (s : State) (hp : p.length ≤ 256) :
    execAll (pbLoad p) s = .next ((s.setPb p).answer .ok) :=
  execAll_pbPush p (s.setPb []) (by simpa using hp)

/-- `FC.DEC` of an encoded frame answers `OK` and gets back its command and payload. -/
theorem exec_fcDec_encodedFrame (d : Byte) {s : State} {cmd : Byte} {p : List Byte}
    (hfb : s.fb = encodedFrame s.cfg cmd p) (hp : p.length ≤ s.cfg.maxPay)
    (hcmd : supportedCommand cmd = true) :
    ∃ t, exec (.fcDec d) s = .next t ∧ t.rsp = some .ok ∧ t.pb = p ∧ t.frValid = true ∧
      ∃ f, t.frame = some f ∧ f.cmd = cmd := by
  have hdec := frameDecode_encodedFrame (cmd := cmd) hp
  rw [← hfb, if_pos hcmd] at hdec
  exact ⟨_, exec_fcDec_of_ok d hdec, rfl, rfl, rfl, _, rfl, rfl⟩

/-- Settles O41: `decode` gets back what `encode` was given, and the operations do what the functions say. -/
theorem frameRoundTrip : Obligations.FrameRoundTrip := by
  refine ⟨fun c cmd p hp => ⟨_, frameEncode_of_le hp, fun hcmd => ?_, fun hcmd => ?_⟩,
    fun s cmd d p hcmd hp => ?_⟩
  · rw [frameDecode_encodedFrame hp, if_pos hcmd]
    rfl
  · rw [frameDecode_encodedFrame hp, if_neg (by simp [hcmd])]
  · have hload := execAll_pbLoad s (hp.trans (s.cfg.maxPay_le.trans (by decide)))
    have henc := exec_fcEnc_of_le cmd (s := (s.setPb p).answer .ok) hp
    obtain ⟨v, hdec, hv⟩ := exec_fcDec_encodedFrame d
      (s := (((s.setPb p).setFb (encodedFrame s.cfg cmd p)).setCrc
        (crcAcc s.cfg (coveredBytes cmd p))).answer .ok) rfl hp hcmd
    exact ⟨_, _, v, hload, rfl, henc, rfl, hdec, hv⟩

end Sys2Proof.Machine
end

section
/-! PROOFS. What the read map shows of the codec and the decoder (20_memory.md R42): the addresses at which
each buffer and each record can be seen, and so what `FC.ENC`, `FC.DEC` and `SD.PARSE` leave alone. -/

namespace Sys2Proof.Machine

/-! ### Where a buffer or a record can be seen -/

/-- An address at which a location can be seen is in the range of its array, or the address of its
register. -/
def Loc.ShownAt (c : Cfg) (ra : Addr) : Loc → Prop
  | .pb _ => ra.toNat < 0x100
  | .fb _ => 0x100 ≤ ra.toNat ∧ ra.toNat < 0x100 + fbCap c
  | .raw _ => 0x300 ≤ ra.toNat ∧ ra.toNat < 0x370
  | l => ∀ n, l.registerAddress = some n → ra.toNat = n

theorem locateRegister_shownAt (c : Cfg) (ra : Addr) : (locateRegister ra.toNat).ShownAt c ra := by
  have hreg := fun n => registerAddress_locateRegister (n := ra.toNat) (a := n)
  unfold locateRegister at hreg ⊢
  split at hreg <;> exact hreg

theorem shownAt_of_locate {c : Cfg} {ra : Addr} {l : Loc} (hl : locate c ra = l) : l.ShownAt c ra := by
  subst hl
  have hreg := locateRegister_shownAt c ra
  unfold locate
  split_ifs with hpb hfb hraw
  · exact hpb
  · exact ⟨Nat.le_of_not_lt hpb, hfb⟩
  · exact hraw
  · exact hreg

/-- `PB` shows in its own range and its fill count at 0x402. -/
theorem State.valueAt_setPb (s : State) (v : List Byte) {ra : Addr} (hpb : 0x100 ≤ ra.toNat)
    (hplen : ra ≠ 0x402) : (s.setPb v).valueAt ra = s.valueAt ra := by
  change (s.setPb v).valueOf (locate s.cfg ra) = s.valueOf (locate s.cfg ra)
  cases hl : locate s.cfg ra with
  | pb i => exact absurd (shownAt_of_locate hl) (Nat.not_lt.mpr hpb)
  | plen => exact absurd (eq_of_locate_register hl rfl) hplen
  | _ => rfl

/-- `FB` shows in its own range and its fill count at 0x403. -/
theorem State.valueAt_setFb (s : State) (v : List Byte) {ra : Addr}
    (hfb : ¬ (0x100 ≤ ra.toNat ∧ ra.toNat < 0x100 + fbCap s.cfg)) (hflen : ra ≠ 0x403) :
    (s.setFb v).valueAt ra = s.valueAt ra := by
  change (s.setFb v).valueOf (locate s.cfg ra) = s.valueOf (locate s.cfg ra)
  cases hl : locate s.cfg ra with
  | fb i => exact absurd (shownAt_of_locate hl) hfb
  | flen => exact absurd (eq_of_locate_register hl rfl) hflen
  | _ => rfl

/-- The frame registers show at 0x405 to 0x407, and their flags in `STATUS`. -/
theorem State.valueAt_setFrame (s : State) (v : Option FrameRegs) {ra : Addr} (hstatus : ra ≠ 0x404)
    (hcmd : ra ≠ 0x405) (hlen : ra ≠ 0x406) (hcksum : ra ≠ 0x407) :
    (s.setFrame v).valueAt ra = s.valueAt ra := by
  change (s.setFrame v).valueOf (locate s.cfg ra) = s.valueOf (locate s.cfg ra)
  cases hl : locate s.cfg ra with
  | status => exact absurd (eq_of_locate_register hl rfl) hstatus
  | frCmd => exact absurd (eq_of_locate_register hl rfl) hcmd
  | frLen => exact absurd (eq_of_locate_register hl rfl) hlen
  | frCksum => exact absurd (eq_of_locate_register hl rfl) hcksum
  | _ => rfl

/-- The snapshot shows in the range of `RAW` and from 0x408 to 0x41B, and its flags in `STATUS`. -/
theorem State.valueAt_setSnap (s : State) (v : Snapshot) {ra : Addr} (hstatus : ra ≠ 0x404)
    (hraw : ¬ (0x300 ≤ ra.toNat ∧ ra.toNat < 0x370)) (hregs : ¬ (0x408 ≤ ra.toNat ∧ ra.toNat < 0x41C)) :
    (s.setSnap v).valueAt ra = s.valueAt ra := by
  change (s.setSnap v).valueOf (locate s.cfg ra) = s.valueOf (locate s.cfg ra)
  cases hl : locate s.cfg ra with
  | status => exact absurd (eq_of_locate_register hl rfl) hstatus
  | raw i => exact absurd (shownAt_of_locate hl) hraw
  | snapFlags | lineMode | sens | lValue =>
    have hra := shownAt_of_locate hl _ rfl
    omega
  | _ => rfl

/-- Settles O59: each operation keeps to its footprint, and each register or buffer it writes shows at its
own addresses only. -/
theorem codecAndDecoderFrames : Obligations.CodecAndDecoderFrames := by
  intro d s t ra _ hstatus
  refine ⟨fun h hfb hcrc hcrcOut hflen => ?_, fun h hpb hcrc hcrcOut hplen hcmd hlen hcksum => ?_,
    fun h hraw hregs => ?_⟩
  · obtain ⟨b, a, c, rfl⟩ := exec_footprint h
    rw [State.valueAt_answer _ _ hstatus, State.valueAt_setCrc _ _ hcrc hcrcOut, s.valueAt_setFb _ hfb hflen]
  · obtain ⟨a, f, p, c, rfl⟩ := exec_footprint h
    rw [State.valueAt_answer _ _ hstatus, State.valueAt_setPb _ _ hpb hplen,
      State.valueAt_setFrame _ _ hstatus hcmd hlen hcksum, s.valueAt_setCrc _ hcrc hcrcOut]
  · obtain ⟨-, rfl⟩ | ⟨raw, -, rfl⟩ := exec_footprint h
    · exact s.valueAt_answer _ hstatus
    · rw [State.valueAt_answer _ _ hstatus, s.valueAt_setSnap _ hstatus hraw hregs]

end Sys2Proof.Machine
end

section
/-! PROOFS. The State Decoder (42_state_decoder.md): what its functions make of the bytes of a block, and the
snapshot `SD.PARSE` writes with them. -/

namespace Sys2Proof.Machine

/-! ### The functions on bytes -/

/-- The magnitude of a signed byte, from its bits (42_state_decoder.md R132). -/
theorem natAbs_toInt_byte (b : Byte) :
    b.toInt.natAbs = if b.getLsbD 7 = true then 256 - b.toNat else b.toNat := by
  have hb := b.isLt
  have hmsb : b.getLsbD 7 = b.msb := (BitVec.msb_eq_getLsbD_last b).symm
  rw [hmsb, BitVec.toInt_eq_msb_cond]
  split <;> omega

/-- The percentage is the magnitude up to 100, and the flag says whether it was above. -/
theorem batt_eq (b : Byte) :
    batt b = (BitVec.ofNat 8 (min b.toInt.natAbs 100), decide (100 < b.toInt.natAbs)) := by
  unfold batt battMax
  by_cases h : 100 < b.toInt.natAbs
  · simp [h, min_eq_right h.le]
  · simp [h, min_eq_left (Nat.le_of_not_lt h)]

/-- Settles O48: the magnitude cut at 100 fits the 8 bits of the percentage. -/
theorem batteryMagnitudeIsClamped : Obligations.BatteryMagnitudeIsClamped := by
  intro b m hm
  obtain rfl : m = b.toInt.natAbs := hm.trans (natAbs_toInt_byte b).symm
  rw [batt_eq]
  refine ⟨Int.natCast_natAbs _, ?_, decide_eq_true_iff⟩
  rw [BitVec.toNat_ofNat, Nat.mod_eq_of_lt (by omega)]

theorem sstate_eq_unknown {b : Byte} (h0 : b ≠ 0x00) (h2 : b ≠ 0x02) (h3 : b ≠ 0x03) :
    sstate b = .unknown := by
  rw [sstate, if_neg h0, if_neg h2, if_neg h3]

theorem ssignal_eq_unknown {b : Byte} (h2 : b ≠ 0x02) (h3 : b ≠ 0x03) : ssignal b = .unknown := by
  rw [ssignal, if_neg h2, if_neg h3]

/-- Settles O49: the named bytes by evaluation, every other byte because each comparison fails. -/
theorem sensorAndSignalCodes : Obligations.SensorAndSignalCodes := by
  refine ⟨rfl, rfl, rfl, fun b h0 h2 h3 => ?_, rfl, rfl, fun b h2 h3 => ?_⟩
  · rw [sstate_eq_unknown h0 h2 h3]; exact ⟨rfl, rfl⟩
  · rw [ssignal_eq_unknown h2 h3]; exact ⟨rfl, rfl⟩

/-! ### Counter values and flags -/

/-- Four bytes side by side, the most significant first, as a number. -/
theorem toNat_append_four_bytes (a b c d : Byte) :
    (a ++ b ++ c ++ d : Word).toNat =
      d.toNat + 256 * c.toNat + 65536 * b.toNat + 16777216 * a.toNat := by
  rw [BitVec.toNat_append, BitVec.toNat_append, toNat_append_bytes,
    ← Nat.shiftLeft_add_eq_or_of_lt c.isLt, ← Nat.shiftLeft_add_eq_or_of_lt d.isLt,
    Nat.shiftLeft_eq, Nat.shiftLeft_eq]
  omega

/-- Settles O50: the value is the four bytes side by side, and the order says which end is first. -/
theorem counterByteOrder : Obligations.CounterByteOrder := by
  intro raw off b hb
  have hbyte (k : Fin 4) : b k = (counterByte raw off k).toNat := hb k (by omega)
  simp only [hbyte]
  exact ⟨toNat_append_four_bytes _ _ _ _, toNat_append_four_bytes _ _ _ _⟩

/-- Two bytes have a bit in common exactly when their conjunction is not zero. -/
theorem and_bne_zero_iff (a b : Byte) :
    (a &&& b != 0) = true ↔ ∃ k, k < 8 ∧ a.getLsbD k = true ∧ b.getLsbD k = true := by
  rw [bne_iff_ne]
  constructor
  · intro hne
    by_contra! hno
    refine hne (BitVec.eq_of_getLsbD_eq fun k hk => ?_)
    simpa using hno k hk
  · rintro ⟨k, -, ha, hb⟩ hzero
    have hk := congrArg (BitVec.getLsbD · k) hzero
    simp [ha, hb] at hk

/-- Settles O51: `inv` turns the test of the masked bits round. -/
theorem flagReadsItsDescriptor : Obligations.FlagReadsItsDescriptor := by
  intro raw d
  refine ⟨fun hinv => ?_, fun hinv => ?_⟩
  · rw [← and_bne_zero_iff, flag, hinv, Bool.xor_false]
  · rw [← and_bne_zero_iff, flag, hinv, Bool.xor_true, Bool.not_eq_false']

/-! ### `SD.PARSE` -/

/-- The bytes of a block by index, in the two forms a block has. -/
theorem get_eq_byteAt (raw : Vector Byte 112) (k : Fin 112) : raw.get k = byteAt raw.toList k.val := by
  simp [byteAt, Vector.get]

theorem exists_block {s : List Byte} (h : s.length = 112) : ∃ raw : Vector Byte 112, raw.toList = s :=
  ⟨⟨s.toArray, h⟩, rfl⟩

/-- The battery bytes stand at 53, 57 and 61 (42_state_decoder.md R131). -/
theorem offBatt_get_val (i : Fin 3) : (offBatt.get i).val = 53 + 4 * i.val := by
  match i with
  | 0 | 1 | 2 => rfl

theorem parseSensor_batt (l : Layout) (raw : Vector Byte 112) (i : Fin 3) :
    ((parseSensor l raw i).batt, (parseSensor l raw i).boor) =
      batt (byteAt raw.toList (53 + 4 * i.val)) := by
  rw [← offBatt_get_val, ← get_eq_byteAt]
  rfl

theorem parse_lines_get (l : Layout) (raw : Vector Byte 112) (j : Fin 4) :
    (parse l raw).lines.get j = parseLine l raw j := by
  match j with
  | 0 | 1 | 2 | 3 => rfl

theorem parseLine_mode_iff (l : Layout) (raw : Vector Byte 112) (j : Fin 4) :
    (parseLine l raw j).mode = .counter ↔ flag raw (l.lineMode.get j) = true := by
  unfold parseLine
  cases flag raw (l.lineMode.get j) <;> simp

/-- `SD.PARSE` of another length writes `ERR` only (42_state_decoder.md R142). -/
theorem exec_sdParse_of_length_ne {d : Byte} {s : State} (hlen : s.pb.length ≠ 112) :
    exec (.sdParse d) s = .next (s.answer .unexpectedLength) := by
  show execSdParse d s = _
  rcases execSdParse_cases d s with ⟨-, e⟩ | ⟨raw, hraw, -⟩
  · exact e
  · exact absurd (hraw ▸ raw.length_toList) hlen

/-- Settles O52: the snapshot written is `parse` of the block in `PB`, whose fields are read off it. -/
theorem parseWritesTheWholeSnapshot : Obligations.ParseWritesTheWholeSnapshot := by
  refine ⟨fun w hop => decode_request_of_reqOp hop rfl, rfl, rfl,
    fun d s => ⟨fun hlen => ?_, exec_sdParse_of_length_ne⟩⟩
  obtain ⟨raw, hraw⟩ := exists_block hlen
  refine ⟨parse s.cfg.layout raw, hraw, exec_sdParse_of_block hraw, rfl, rfl, rfl, fun i => ?_, fun j => ?_⟩
  · rw [parse_sensors_get, ← hraw]
    exact ⟨rfl, rfl, parseSensor_batt _ _ i⟩
  · rw [parse_lines_get]
    exact ⟨parseLine_mode_iff _ _ j, rfl⟩

/-- Settles O53: a block is the bytes it was made of, and under the invariant a snapshot is `parse` of its
`RAW`. -/
theorem rawDeterminesTheSnapshot : Obligations.RawDeterminesTheSnapshot := by
  refine ⟨fun d s t hlen h k hk => ?_, fun s t m n hs ht hcfg hm hn hraw => ?_⟩
  · obtain ⟨hne, -⟩ | ⟨raw, hraw, rfl⟩ := exec_footprint h
    · exact absurd hlen hne
    · rw [← hraw, ← get_eq_byteAt raw ⟨k, hk⟩]
      exact State.valueAt_raw _ ⟨k, hk⟩
  · rw [hs.snap_parsed m hm, ht.snap_parsed n hn, hcfg, hraw]

end Sys2Proof.Machine
end

section
/-! PROOFS. The buffer and housekeeping operations (43_buffer_ops.md R160 to R166): their codes and effect, and
at which addresses of the read map they show. -/

namespace Sys2Proof.Machine

/-! ### The pushes -/

theorem exec_pbPush_of_lt (d : Byte) {s : State} (hroom : s.pb.length < 256) :
    exec (.pbPush d) s = .next ((s.setPb (s.pb ++ [d])).answer .ok) := by
  rcases execPbPush_cases d s with ⟨-, e⟩ | ⟨hfull, -⟩
  · exact e
  · exact absurd hroom (Nat.not_lt.mpr hfull)

theorem exec_pbPush_of_le (d : Byte) {s : State} (hfull : 256 ≤ s.pb.length) :
    exec (.pbPush d) s = .next (s.answer .bufFull) := by
  rcases execPbPush_cases d s with ⟨hroom, -⟩ | ⟨-, e⟩
  · exact absurd hroom (Nat.not_lt.mpr hfull)
  · exact e

theorem exec_fbPush_of_lt (d : Byte) {s : State} (hroom : s.fb.length < fbCap s.cfg) :
    exec (.fbPush d) s = .next ((s.setFb (s.fb ++ [d])).answer .ok) := by
  rcases execFbPush_cases d s with ⟨-, e⟩ | ⟨hfull, -⟩
  · exact e
  · exact absurd hroom (Nat.not_lt.mpr hfull)

theorem exec_fbPush_of_le (d : Byte) {s : State} (hfull : fbCap s.cfg ≤ s.fb.length) :
    exec (.fbPush d) s = .next (s.answer .bufFull) := by
  rcases execFbPush_cases d s with ⟨hroom, -⟩ | ⟨-, e⟩
  · exact absurd hroom (Nat.not_lt.mpr hfull)
  · exact e

/-- Settles O56: the words are the operations' encodings, and each push has its two ends, told apart by the
capacity. -/
theorem pushesAppendOneByte : Obligations.PushesAppendOneByte :=
  ⟨fun _ => ⟨fun hop => decode_request_of_reqOp hop rfl, fun hop => decode_request_of_reqOp hop rfl⟩,
    rfl, rfl, fun d _ => ⟨exec_pbPush_of_lt d, fun hfull => exec_pbPush_of_le d hfull.ge,
      exec_fbPush_of_lt d, fun hfull => exec_fbPush_of_le d hfull.ge⟩⟩

/-! ### Where a push shows -/

theorem getElem?_concat_of_ne {α : Type} (l : List α) (d : α) {n : Nat} (h : n ≠ l.length) :
    (l ++ [d])[n]? = l[n]? := by
  rcases Nat.lt_or_gt_of_ne h with hlt | hgt
  · exact List.getElem?_append_left hlt
  · rw [List.getElem?_eq_none (by simpa using hgt), List.getElem?_eq_none hgt.le]

/-- A byte appended to `PB` shows at the fill count, and the new fill count at 0x402. -/
theorem State.valueAt_setPb_concat (s : State) (d : Byte) {ra : Addr} (hfill : ra.toNat ≠ s.pb.length)
    (hplen : ra ≠ 0x402) : (s.setPb (s.pb ++ [d])).valueAt ra = s.valueAt ra := by
  by_cases hpb : ra.toNat < 0x100
  · simp only [State.valueAt, locate_pb hpb, State.valueOf, State.setPb_pb, getElem?_concat_of_ne _ _ hfill]
  · exact s.valueAt_setPb _ (Nat.le_of_not_lt hpb) hplen

/-- A byte appended to `FB` shows at the fill count, and the new fill count at 0x403. -/
theorem State.valueAt_setFb_concat (s : State) (d : Byte) {ra : Addr}
    (hfill : ra.toNat ≠ 0x100 + s.fb.length) (hflen : ra ≠ 0x403) :
    (s.setFb (s.fb ++ [d])).valueAt ra = s.valueAt ra := by
  by_cases hfb : 0x100 ≤ ra.toNat ∧ ra.toNat < 0x100 + fbCap s.cfg
  · have hindex : ra.toNat - 0x100 ≠ s.fb.length := by omega
    simp only [State.valueAt, State.setFb_cfg, locate_fb hfb.1 hfb.2, State.valueOf, State.setFb_fb,
      getElem?_concat_of_ne _ _ hindex]
  · exact s.valueAt_setFb _ hfb hflen

/-- Settles O57: the byte pushed is the one at the old fill count, and an append leaves the bytes below it. -/
theorem pushesStoreAtTheFillCount : Obligations.PushesStoreAtTheFillCount := by
  intro d s t _
  refine ⟨fun h hroom => ?_, fun h hroom => ?_⟩
  · obtain rfl := Host.Outcome.next.inj ((exec_pbPush_of_lt d hroom).symm.trans h)
    refine ⟨?_, fun ra hfill hplen hstatus => ?_⟩
    · rw [State.valueAt_pb _ hroom]
      simp
    · rw [State.valueAt_answer _ _ hstatus, s.valueAt_setPb_concat d hfill hplen]
  · obtain rfl := Host.Outcome.next.inj ((exec_fbPush_of_lt d hroom).symm.trans h)
    refine ⟨?_, fun ra hfill hflen hstatus => ?_⟩
    · rw [State.valueAt_fb ((s.setFb (s.fb ++ [d])).answer .ok) hroom]
      simp
    · rw [State.valueAt_answer _ _ hstatus, s.valueAt_setFb_concat d hfill hflen]

/-! ### The clears -/

/-- Settles O55: a clear only empties its buffer and answers, and an address at or above the fill count has no
value. -/
theorem clearsEmptyTheBuffer : Obligations.ClearsEmptyTheBuffer := by
  refine ⟨fun w => ⟨fun hop => decode_request_of_reqOp hop rfl, fun hop => decode_request_of_reqOp hop rfl⟩,
    rfl, fun d s => ⟨⟨_, rfl, rfl, fun ra hpb => ?_⟩, ⟨_, rfl, rfl, fun ra hlow hfb => ?_⟩⟩⟩
  · exact (State.valueAt_eq_none_iff _ ra).mpr (.inl ⟨hpb, Nat.zero_le _⟩)
  · exact (State.valueAt_eq_none_iff _ ra).mpr (.inr (.inl ⟨hlow, hfb, Nat.zero_le _⟩))

/-! ### `NOP` and the reserved codes -/

/-- Every instruction answers in every state (70_reset_and_hazards.md R213). -/
theorem exec_goesOn (i : Instr) (s : State) : GoesOn (exec i s) := by
  cases i with
  | pbPush d => rcases execPbPush_cases d s with ⟨-, e⟩ | ⟨-, e⟩ <;> exact ⟨_, e⟩
  | fbPush d => rcases execFbPush_cases d s with ⟨-, e⟩ | ⟨-, e⟩ <;> exact ⟨_, e⟩
  | fcEnc c => rcases execFcEnc_cases c s with ⟨-, e⟩ | ⟨-, _, _, -, -, e⟩ <;> exact ⟨_, e⟩
  | sdParse d => rcases execSdParse_cases d s with ⟨-, e⟩ | ⟨_, -, e⟩ <;> exact ⟨_, e⟩
  | fcDec | cmdQuery | cmdControl | cmdCounter => exact ⟨_, decodeFb_eq _⟩
  | nop | crcInit | crcByte | pbClr | fbClr | reservedA | reservedB | reservedC | reservedD | reservedE
  | reservedF => exact ⟨_, rfl⟩

/-- Every operation but `NOP` overwrites the answer of the one before it, and reads neither part of it. -/
theorem exec_answer {i : Instr} (hi : ∀ d, i ≠ .nop d) (s : State) (c : Cause) :
    exec i (s.answer c) = exec i s := by
  cases i with
  | nop d => exact absurd rfl (hi d)
  | _ => rfl

/-- An operation but `NOP` answers the same whatever `ERR` was, so it changes `ERR` from any other code. -/
theorem exists_exec_err_ne {i : Instr} (hi : ∀ d, i ≠ .nop d) :
    ∃ s t : State, exec i s = .next t ∧ t.err ≠ s.err := by
  obtain ⟨t, h⟩ := exec_goesOn i State.reset
  obtain ⟨c, hc⟩ : ∃ c, t.err ≠ c := by
    by_cases hok : t.err = .ok
    · exact ⟨.illegalOp, by simp [hok]⟩
    · exact ⟨.ok, hok⟩
  exact ⟨State.reset.answer c, t, (exec_answer hi _ c).trans h, hc⟩

/-- Settles O54: `NOP` writes the response only, which no address shows; every other operation changes `ERR`
from some state. -/
theorem nopWritesNothing : Obligations.NopWritesNothing :=
  ⟨fun _ hop => decode_request_of_reqOp hop rfl, fun _ _ => ⟨_, rfl, rfl, fun _ => rfl⟩,
    fun _ => exists_exec_err_ne⟩

/-- The codes from 0xA up are the reserved ones: a word is the encoding of what it decodes to, and the
encodings of the other instructions have lower codes or are frames (30_encoding.md R69, R71). -/
theorem isReserved_decodeRequest {w : Request} (hop : 0xA ≤ (reqOp w).toNat) :
    (decodeRequest w).isReserved = true := by
  have henc := encode_decodeRequest w
  cases hi : decodeRequest w with
  | reservedA | reservedB | reservedC | reservedD | reservedE | reservedF => rfl
  | nop | crcInit | crcByte | pbClr | pbPush | fbClr | fbPush | fcEnc | fcDec | sdParse =>
    rw [hi] at henc
    rw [← Encoded.request.inj henc, reqOp_mkRequest] at hop
    exact absurd hop (by decide)
  | cmdQuery | cmdControl | cmdCounter =>
    rw [hi] at henc
    cases henc

/-- Settles O16: a reserved code only answers, and the reserved codes are those from 0xA up. -/
theorem reservedCodesAnswerIllegalOp : Obligations.ReservedCodesAnswerIllegalOp := by
  refine ⟨fun i s hi => ?_, fun _ => isReserved_decodeRequest, rfl⟩
  obtain ⟨t, h⟩ := exec_goesOn i s
  rw [h, exec_reserved hi h]
  rfl

end Sys2Proof.Machine
end

section
/-! PROOFS. What each failure writes (60_exceptions.md R195). The failures of `FC.DEC` are those of `decode`
on what `FB` holds; the others stand with their operations above. -/

namespace Sys2Proof.Machine

/-- With either length test failed, `FC.DEC` computes no checksum and keeps `CRC`. -/
theorem exec_fcDec_of_fbTooShort (d : Byte) {s : State} (hshort : s.fbTooShort) :
    exec (.fcDec d) s = .next (((s.setFrame none).setPb []).answer .tooShort) := by
  obtain ⟨htooShort, -⟩ := decodeChecksInOrder s.cfg s.fb _ _ _ rfl rfl rfl
  exact exec_fcDec_of_error d (htooShort.mpr hshort)

/-- With a whole frame in `FB` whose checksum or command is refused, `FC.DEC` leaves the accumulator over the
covered bytes in `CRC`. -/
theorem exec_fcDec_of_whole_refused (d : Byte) {s : State} {c : Cause} (hc : c ≠ .tooShort)
    (h : frameDecode s.cfg s.fb = .error c) :
    exec (.fcDec d) s = .next ((((s.setCrc (crcAcc s.cfg (s.fb.take ((byteAt s.fb 1).toNat + 2)))).setFrame
      none).setPb []).answer c) := by
  rw [exec_fcDec_of_error d h, State.afterDecode, if_neg hc]
  rfl

/-- Settles O15: each failure is the end of its operation that belongs to the test stated, and its named
updates are the fields listed. -/
theorem failuresWriteExactlyThis : Obligations.FailuresWriteExactlyThis := by
  obtain ⟨hreserved, -⟩ := reservedCodesAnswerIllegalOp
  refine ⟨⟨rfl, rfl, rfl, rfl, rfl, rfl, rfl⟩, fun d s => ⟨exec_fcEnc_of_lt d, exec_fcDec_of_fbTooShort d, ?_,
    exec_sdParse_of_length_ne, fun hfull => exec_pbPush_of_le d hfull.ge,
    fun hfull => exec_fbPush_of_le d hfull.ge, fun i => hreserved i s⟩⟩
  rintro _ _ _ rfl rfl rfl hwhole
  obtain ⟨-, hmismatch, hunknown, -⟩ := decodeChecksInOrder s.cfg s.fb _ _ _ rfl rfl rfl
  simp only [State.fbTooShort, not_or, not_lt] at hwhole
  obtain ⟨hmin, hlen⟩ := hwhole
  exact ⟨fun hck => exec_fcDec_of_whole_refused d (by decide) (hmismatch.mpr ⟨hmin, hlen, hck⟩),
    fun hck h52 h57 h58 => exec_fcDec_of_whole_refused d (by decide)
      (hunknown.mpr ⟨hmin, hlen, hck, h52, h57, h58⟩)⟩

end Sys2Proof.Machine
end

section
/-! PROOFS. Reset and steps (70_reset_and_hazards.md): every presentation is answered (R205, R213), a reset
voids the operation before it (R202), and what the first operations after reset do (R203). -/

namespace Sys2Proof.Machine

/-! ### Every presentation is answered -/

/-- An operation has been performed and nothing taken off the list by it: a next state with a response, in
which the host still has `l` to do. -/
def Answers (l : List HostInput) (o : Host.Outcome State Fault Refusal) : Prop :=
  ∃ t c, o = .next t ∧ t.inputs = l ∧ t.rsp = some c

theorem exec_answers (i : Instr) (s : State) : Answers s.inputs (exec i s) := by
  obtain ⟨t, h⟩ := exec_goesOn i s
  obtain ⟨-, -, hinputs, -⟩ := operationsWriteOnlyTheirState i s t h
  obtain ⟨c, hc, -⟩ := errHoldsTheResponse i s t h
  exact ⟨t, c, h, hinputs, hc⟩

theorem receiveFrame_answers (bytes : List Byte) (s : State) : Answers s.inputs (receiveFrame bytes s) := by
  have h : receiveFrame bytes s = .next _ := decodeFb_eq _
  obtain ⟨_, _, _, _, c, e⟩ := receiveFrame_footprint h
  exact ⟨_, c, h, by rw [e]; rfl, by rw [e]; rfl⟩

/-- A request word is always an instruction, and delivered bytes are received whatever they are. -/
theorem step_present_answers {s : State} {e : Encoded} {rest : List HostInput}
    (hin : s.inputs = .present e :: rest) : Answers rest (step s) := by
  cases e with
  | request w => rw [step_request hin]; exact exec_answers _ (s.setInputs rest)
  | frame bytes => rw [step_frame hin]; exact receiveFrame_answers bytes (s.setInputs rest)

/-- A step with nothing to do changes nothing (60_exceptions.md R192). -/
theorem step_nil {s : State} (hin : s.inputs = []) : step s = .next s := by
  simp [step, serveNext, hin]

theorem step_goesOn (s : State) : GoesOn (step s) := by
  match hin : s.inputs with
  | [] => exact ⟨s, step_nil hin⟩
  | .present _ :: _ =>
    obtain ⟨t, _, h, -⟩ := step_present_answers hin
    exact ⟨t, h⟩
  | .read _ :: _ => exact ⟨_, step_read hin⟩
  | .reset :: _ => exact ⟨_, step_reset hin⟩

/-- Settles O6: each of the things a step can be goes on, and a presentation is answered. -/
theorem everyOperationAnswers : Obligations.EveryOperationAnswers := by
  refine ⟨step_goesOn, fun i s => ?_, fun s t e rest hin h => ?_⟩
  · obtain ⟨t, c, h, -, hc⟩ := exec_answers i s
    exact ⟨t, c, h, hc⟩
  · obtain ⟨u, c, hu, hrest, hc⟩ := step_present_answers hin
    obtain rfl := Host.Outcome.next.inj (hu.symm.trans h)
    exact ⟨hrest, c, hc⟩

/-! ### A step performs what is presented -/

theorem step_of_decode_ok {s : State} {e : Encoded} {i : Instr} {rest : List HostInput}
    (hin : s.inputs = .present e :: rest) (hd : decode e = .ok i) :
    step s = exec i (s.setInputs rest) := by
  cases e with
  | request w => rw [step_request hin, Except.ok.inj hd]
  | frame bytes => rw [step_frame hin, exec_of_encode_frame (encode_of_decodeFrame hd).1]

/-- Settles O5: bytes are received whether or not they decode, so the refusal is not needed in the second
clause. -/
theorem stepPerformsWhatIsPresented : Obligations.StepPerformsWhatIsPresented :=
  fun _ _ => ⟨fun _ _ => step_of_decode_ok, fun _ _ hin _ => step_frame hin, step_nil⟩

/-! ### Reset -/

/-- Reset keeps the configuration, the list of inputs and the count of free values, and no more. -/
theorem State.resetInput_congr {s t : State} (hcfg : t.cfg = s.cfg) (hinputs : t.inputs = s.inputs)
    (hdraws : t.draws = s.draws) : t.resetInput = s.resetInput := by
  rw [State.resetInput, hcfg, hinputs, hdraws, State.resetInput]

/-- Settles O25: no operation writes anything that reset keeps. -/
theorem resetVoidsTheOperationBeforeIt : Obligations.ResetVoidsTheOperationBeforeIt := by
  intro i s t h
  obtain ⟨hcfg, -, hinputs, hdraws, -⟩ := operationsWriteOnlyTheirState i s t h
  exact State.resetInput_congr hcfg hinputs hdraws

/-- Settles O26: with both buffers empty the pushes have room, the empty payload is within `MAXPAY`, no frame
stands in `FB` and no block in `PB`. -/
theorem firstOperationsAfterReset : Obligations.FirstOperationsAfterReset := by
  intro c d
  have hroom : (State.resetOf c).fb.length < fbCap (State.resetOf c).cfg := Nat.succ_pos _
  have hpay : (State.resetOf c).pb.length ≤ (State.resetOf c).cfg.maxPay := Nat.zero_le _
  have hshort : (State.resetOf c).fbTooShort := .inl (by simp)
  have hblock : (State.resetOf c).pb.length ≠ 112 := by simp
  obtain ⟨-, -, hcrc⟩ := checksumOperationsWriteCrc
  exact ⟨(hcrc d _).2, exec_pbPush_of_lt d (by simp), exec_fbPush_of_lt d hroom,
    ⟨_, _, frameEncode_of_le hpay, exec_fcEnc_of_le d hpay, rfl, rfl⟩,
    ⟨_, exec_fcDec_of_fbTooShort d hshort, rfl⟩, ⟨_, exec_sdParse_of_length_ne hblock, rfl⟩⟩

end Sys2Proof.Machine
end

section
/-! PROOFS. The two other forms of `crc_step` (40_checksum_engine.md section 4). The table form: a shift is
linear, and eight shifts only move the low half up. The right-shifting form: reversal turns a shift to the
left into one to the right. -/

namespace Sys2Proof.Machine

/-! ### The table form -/

/-- A shift is linear over XOR: the polynomial enters once for each 1 that leaves the top. -/
theorem crcShift_xor (a b : Half) : crcShift (a ^^^ b) = crcShift a ^^^ crcShift b := by
  rw [crcShift_eq_ite, crcShift_eq_ite a, crcShift_eq_ite b, BitVec.getLsbD_xor, BitVec.shiftLeft_xor_distrib]
  cases a.getLsbD 15 <;> cases b.getLsbD 15
  · rfl
  · exact BitVec.xor_assoc _ _ _
  · change (a <<< 1 ^^^ b <<< 1) ^^^ 0x1021 = (a <<< 1 ^^^ 0x1021) ^^^ b <<< 1
    ac_rfl
  · simp [← BitVec.xor_assoc, BitVec.xor_comm]

theorem repeat_crcShift_xor (n : Nat) (a b : Half) :
    Nat.repeat crcShift n (a ^^^ b) = Nat.repeat crcShift n a ^^^ Nat.repeat crcShift n b := by
  induction n with
  | zero => rfl
  | succ n ih => simp only [Nat.repeat, ih, crcShift_xor]

/-- While only zeros leave the top, the shifts are plain ones. -/
theorem repeat_crcShift_eq_shiftLeft {n : Nat} (hn : n ≤ 16) {c : Half}
    (htop : ∀ k, 16 - n ≤ k → c.getLsbD k = false) : Nat.repeat crcShift n c = c <<< n := by
  induction n with
  | zero => exact (BitVec.shiftLeft_zero c).symm
  | succ n ih =>
    have hleaves : (c <<< n).getLsbD 15 = false := by
      rw [BitVec.getLsbD_shiftLeft, htop (15 - n) (by omega), Bool.and_false]
    rw [Nat.repeat, ih (by omega) fun k hk => htop k (by omega), crcShift_eq_ite, hleaves,
      BitVec.shiftLeft_add]
    rfl

/-- Without `CRC_REFIN` the byte meets the top half only, so the low half can be split off. -/
theorem crcEnter_eq_low_xor {cfg : Cfg} (hrefin : cfg.crcRefin = false) (c : Half) (d : Byte) :
    crcEnter cfg c d =
      (c.setWidth 8).setWidth 16 ^^^ crcEnter cfg 0 (c.extractLsb' 8 8 ^^^ d) := by
  refine BitVec.eq_of_getLsbD_eq fun k hk => ?_
  rw [BitVec.getLsbD_xor, getLsbD_crcEnter cfg c d hk, getLsbD_crcEnter cfg 0 _ hk, hrefin]
  by_cases hlow : k < 8
  · have hlow' : ¬ 8 ≤ k := by omega
    simp [hk, hlow, hlow']
  · have hhigh : 8 ≤ k := by omega
    have hindex : k - 8 < 8 := by omega
    simp [hhigh, hindex]

/-- Eight shifts move the low half up unchanged; a register shifted by 8 has nothing else left. -/
theorem repeat_crcShift_low (c : Half) :
    Nat.repeat crcShift 8 ((c.setWidth 8).setWidth 16) = c <<< 8 := by
  have htop : ∀ k, 16 - 8 ≤ k → ((c.setWidth 8).setWidth 16).getLsbD k = false := fun k hk => by
    simp [show ¬ k < 8 by omega]
  rw [repeat_crcShift_eq_shiftLeft (by decide) htop]
  refine BitVec.eq_of_getLsbD_eq fun k hk => ?_
  simp [show k - 8 < 8 by omega, show k - 8 < 16 by omega]

/-- Settles O29: the step is the sum of the shifted low half and of the table's entry for the top half. -/
theorem crcStepHasTableForm : Obligations.CrcStepHasTableForm := by
  intro cfg r d hrefin
  rw [crcStep_eq_repeat, crcStep_eq_repeat, crcEnter_eq_low_xor hrefin, repeat_crcShift_xor,
    repeat_crcShift_low]

/-! ### The right-shifting form -/

/-- One shift of the reversed register, in the form of 40_checksum_engine.md section 4. -/
def crcShiftRight (c : Half) : Half := if c.getLsbD 0 = true then (c >>> 1) ^^^ 0x8408 else c >>> 1

theorem reverse_xor {w : Nat} (a b : BitVec w) : (a ^^^ b).reverse = a.reverse ^^^ b.reverse := by
  refine BitVec.eq_of_getLsbD_eq fun k _ => ?_
  simp only [BitVec.getLsbD_reverse, BitVec.getMsbD_xor, BitVec.getLsbD_xor]

theorem rev16_shiftLeft_one (c : Half) : rev16 (c <<< 1) = rev16 c >>> 1 := by
  refine BitVec.eq_of_getLsbD_eq fun k hk => ?_
  rw [getLsbD_rev16 _ hk, BitVec.getLsbD_ushiftRight]
  by_cases hlast : k = 15
  · simp [hlast]
  · have hindex : 15 - k - 1 = 15 - (1 + k) := by omega
    rw [getLsbD_rev16 c (by omega : 1 + k < 16), BitVec.getLsbD_shiftLeft, hindex]
    simp [show 15 - k < 16 by omega, show ¬ 15 - k < 1 by omega]

/-- 0x8408 is the reversed polynomial, and the bit that leaves the top of a register leaves the bottom of its
reversal. -/
theorem rev16_crcShift (c : Half) : rev16 (crcShift c) = crcShiftRight (rev16 c) := by
  rw [crcShift_eq_ite, crcShiftRight, getLsbD_rev16 c (by decide)]
  split
  · rw [← rev16_shiftLeft_one, rev16, reverse_xor]
    rfl
  · exact rev16_shiftLeft_one c

theorem rev16_repeat_crcShift (n : Nat) (c : Half) :
    rev16 (Nat.repeat crcShift n c) = Nat.repeat crcShiftRight n (rev16 c) := by
  induction n with
  | zero => rfl
  | succ n ih => rw [Nat.repeat, rev16_crcShift, ih, Nat.repeat]

/-- Under `CRC_REFIN` the byte enters the reversed register unreversed, at the bottom. -/
theorem rev16_crcEnter {cfg : Cfg} (hrefin : cfg.crcRefin = true) (c : Half) (d : Byte) :
    rev16 (crcEnter cfg c d) = rev16 c ^^^ d.setWidth 16 := by
  refine BitVec.eq_of_getLsbD_eq fun k hk => ?_
  have hsub : 15 - (15 - k) = k := by omega
  rw [getLsbD_rev16 _ hk, getLsbD_crcEnter cfg c d (by omega), hrefin, if_pos rfl, hsub, BitVec.getLsbD_xor,
    getLsbD_rev16 c hk, BitVec.getLsbD_setWidth]
  by_cases hlow : k < 8
  · simp [hk, show 8 ≤ 15 - k by omega]
  · simp [show ¬ 8 ≤ 15 - k by omega, BitVec.getLsbD_of_ge d k (by omega)]

/-- Settles O30: reversal takes the register with the byte entered, and each of the eight shifts, to its
counterpart. -/
theorem crcStepHasReflectedForm : Obligations.CrcStepHasReflectedForm := by
  intro cfg r d hrefin
  calc (crcStep cfg r d).reverse
      = Nat.repeat crcShiftRight 8 (rev16 (crcEnter cfg r d)) := rev16_repeat_crcShift 8 _
    _ = Nat.repeat crcShiftRight 8 (r.reverse ^^^ d.setWidth 16) := by
        rw [rev16_crcEnter hrefin, rev16]

end Sys2Proof.Machine
end

section
/-! PROOFS. Pushes into a buffer over its capacity (log 14). -/

namespace Sys2Proof.Machine

/-- Settles O60: a push tests for room, and a buffer over its capacity has none. -/
theorem overfullBuffersCountAsFull : Obligations.OverfullBuffersCountAsFull :=
  fun d _ => ⟨fun hover => exec_pbPush_of_le d hover.le, fun hover => exec_fbPush_of_le d hover.le⟩

end Sys2Proof.Machine
end
